-- ==== Sys2Proof/Word.lean ====
section
/-! DEFINITION. The two widths of the block: the byte and the 16-bit command word. -/

namespace Sys2Proof

/-- A byte: a control word, or the payload of one shift-out (00_scope.md R5, 20_memory.md R32). -/
abbrev Byte := BitVec 8

/-- A command word: 16 bits, one format, one length (30_encoding.md R43). -/
abbrev Word := BitVec 16

end Sys2Proof
end

