-- ==== Sys2Proof/Config.lean ====
section
/-! DEFINITION. The parameters of 00_scope.md R5 and the free values of the environment: the types they
range over, the two fixed constants, and the opaque constants that stand for what the spec leaves open. -/

namespace Sys2Proof

/-- The four peak-current levels, in the order 4.0, 6.4, 9.3, 12.8 mA (R5, R45). -/
inductive PeakLevel where
  | ma40 | ma64 | ma93 | ma128
  deriving DecidableEq, Repr, Inhabited

/-- `PEAK_CODE` of R5: the 2-bit code of each peak-current level. -/
structure PeakCode where
  ma40 : BitVec 2
  ma64 : BitVec 2
  ma93 : BitVec 2
  ma128 : BitVec 2
  deriving DecidableEq, Repr, Inhabited

/-- `PEAK_CODE` is a bijection: its four codes differ (R5). -/
def PeakCode.distinct (p : PeakCode) : Bool :=
  decide ([p.ma40, p.ma64, p.ma93, p.ma128].Nodup)

/-- The code table the spec uses in its worked examples (92_eei_decisions.md D4, 93 G2). No rule rests on it. -/
def PeakCode.exampleTable : PeakCode := ⟨0b11, 0b01, 0b00, 0b10⟩

/-- The lines of 60_exceptions.md R87: the four protocol lines, and the three optional lines that only
construction touches. -/
inductive Line where
  | data | clk | ce | rs | blank | oscSel | reset
  deriving DecidableEq, Repr, Inhabited

/-- The level a line set asks for (R60). -/
inductive Drive where
  | low | high
  deriving DecidableEq, Repr, Inhabited

/-- The underlying cause of a failed line set: a value of the line's own type `Cause_L`, by its number there. No
rule looks into it (R5, R86, 93 I1; log 5). -/
structure Cause where
  token : Nat
  deriving DecidableEq, Repr, Inhabited

/-- `Cause_L` of one line, a parameter (R5): how many values the type has, or none for a type without bound. A type
with no value is that of a line that cannot fail (log 5). -/
structure CauseType where
  values : Option Nat
  deriving DecidableEq, Repr, Inhabited

/-- `Cause_L` for each line L (R5). -/
structure CauseTypes where
  data : CauseType
  clk : CauseType
  ce : CauseType
  rs : CauseType
  blank : CauseType
  oscSel : CauseType
  reset : CauseType
  deriving DecidableEq, Repr, Inhabited

/-- What the output-line capability answers to one line set (R60). -/
inductive Answer where
  | ok
  | err (cause : Cause)
  deriving DecidableEq, Repr, Inhabited

/-- The arguments of construction: `N`, the code table, the prescaler polarity, the optional lines wired and the
error type of each line (R5, 70_reset_and_hazards.md R101). -/
structure ConstructArgs where
  n : Nat
  peakCode : PeakCode
  prescalerDiv8 : BitVec 1
  hasBlank : Bool
  hasOscSel : Bool
  hasReset : Bool
  causes : CauseTypes
  deriving DecidableEq, Repr

/-- Characters per physical device (R5). -/
def deviceChars : Nat := 4

/-- Columns per character cell (R5). -/
def cellColumns : Nat := 5

namespace Config

/-- FREE VALUE: the answer of the line oracle to the line set that becomes event number `k` of TRACE
(counting from 0), on that line with that level (R60, D11, 93 I2; log 3). -/
opaque lineOracle : (k : Nat) → Line → Drive → Answer

/-- FREE VALUE: by how much the chain's width exceeds 4 (log 4). -/
opaque widthAboveFour : Nat

/-- FREE VALUE: four codes, any at all (log 4). -/
opaque anyCodes : PeakCode

/-- FREE VALUE: the value of CW1 bit 1 that means direct (log 4). -/
opaque prescalerDirect : BitVec 1

/-- FREE VALUE: whether the Blank line is wired (log 4). -/
opaque hasBlank : Bool

/-- FREE VALUE: whether the Oscillator-Select line is wired (log 4). -/
opaque hasOscSel : Bool

/-- FREE VALUE: whether the Reset line is wired (log 4). -/
opaque hasReset : Bool

/-- FREE VALUE: the error type of each line (log 4, log 5). -/
opaque causes : CauseTypes

/-- `N` of the block that `State.reset` is: any natural number from 4 on (R5). -/
def width : Nat := 4 + widthAboveFour

/-- `PEAK_CODE` of the block that `State.reset` is: any bijection (R5, D4). Where the free codes are no
bijection the example table stands in, so that every bijection and nothing else is possible. -/
def peakCode : PeakCode := if anyCodes.distinct then anyCodes else PeakCode.exampleTable

/-- `PRESCALER_DIV8` of the block that `State.reset` is: the complement of the value for direct (R5, D6). -/
def prescalerDiv8 : BitVec 1 := ~~~prescalerDirect

/-- The construction arguments of the block that `State.reset` is. -/
def args : ConstructArgs := ⟨width, peakCode, prescalerDiv8, hasBlank, hasOscSel, hasReset, causes⟩

end Config

end Sys2Proof
end

