-- ==== Sys2Proof/Syntax.lean ====
section
/-! DEFINITION. The commands (one constructor per row of the opcode table), the pseudo-operations made of
them, and the assembler's written lines. -/

namespace Sys2Proof

/-- The operand of `SETWAKE` and the meaning of CW0 bit 6 (R15, R45). -/
inductive WakeMode where
  | sleep | wake
  deriving DecidableEq, Repr, Inhabited

/-- The data-out fan-out mode: the operand of `SETFAN`, CW1 bit 0, and `DOM` (R16, R17, R45). -/
inductive FanMode where
  | serial | simultaneous
  deriving DecidableEq, Repr, Inhabited

/-- The external-oscillator prescaler setting: the operand of `SETPRE` (R16, R45). -/
inductive PrescalerMode where
  | direct | div8
  deriving DecidableEq, Repr, Inhabited

/-- The eleven commands of 30_encoding.md R44. The operand types carry the ranges of R45, so every term is a
command that some legal word encodes. -/
inductive Instr where
  /-- `ENTER_DOT` (R62) -/
  | enterDot
  /-- `ENTER_CTRL` (R63) -/
  | enterCtrl
  /-- `SHIFT b` (R64) -/
  | shift (b : Byte)
  /-- `LATCH` (R65) -/
  | latch
  /-- `SETBRT b` (R71) -/
  | setBrt (b : Byte)
  /-- `SETCUR l` (R72) -/
  | setCur (l : PeakLevel)
  /-- `SETWAKE v` (R73) -/
  | setWake (v : WakeMode)
  /-- `SETFAN v` (R74) -/
  | setFan (v : FanMode)
  /-- `SETPRE v` (R75) -/
  | setPre (v : PrescalerMode)
  /-- `PUSH0` (R80) -/
  | push0
  /-- `PUSH1` (R81) -/
  | push1
  deriving DecidableEq, Repr, Inhabited

/-- The pseudo-operations of 30_encoding.md R55. -/
inductive PseudoOp where
  | setBrightness (b : Byte)
  | setPeakCurrent (l : PeakLevel)
  | setSleep (asleep : Bool)
  | displaySleep
  | displayWake
  | setSerialDataOut
  | setSimultaneousDataOut
  | setOscillatorPrescaler (p : PrescalerMode)
  | writeDots (bytes : List Byte)
  | printColumns (bytes : List Byte)
  | clear
  | beginInit
  deriving DecidableEq, Repr, Inhabited

/-- The mnemonics of the assembler (R44, R54). -/
inductive Mnemonic where
  | enterDot | enterCtrl | shift | latch | setBrt | setCur | setWake | setFan | setPre | push0 | push1
  deriving DecidableEq, Repr, Inhabited

/-- The operand names of the assembler (R54). -/
inductive OperandName where
  | ma40 | ma64 | ma93 | ma128 | wake | sleep | serial | simultaneous | direct | div8
  deriving DecidableEq, Repr, Inhabited

/-- An assembler operand: a number or a name (R54). -/
inductive AsmOperand where
  | number (k : Nat)
  | name (w : OperandName)
  deriving DecidableEq, Repr, Inhabited

/-- One assembler line: "the mnemonic, then at most one operand" (R54). -/
structure AsmLine where
  mnemonic : Mnemonic
  operand : Option AsmOperand
  deriving DecidableEq, Repr, Inhabited

end Sys2Proof
end

