-- ==== Sys2Proof/WellFormed.lean ====
section
/-! DEFINITION. The checks on terms whose types do not carry the rule: construction arguments, code tables,
assembler lines. A term of `Instr` needs none: its operand types are the ranges of 30_encoding.md R45. -/

namespace Sys2Proof

/-- `PEAK_CODE` must be a bijection (R5). -/
def PeakCode.wf (p : PeakCode) : Bool := p.distinct

/-- Construction arguments: `N` at least 4 and a bijective code table (R5, R101). -/
def ConstructArgs.wf (a : ConstructArgs) : Bool := decide (4 ≤ a.n) && a.peakCode.wf

/-- A written line has the operand its mnemonic's form asks for, in its range (R54): nothing for the zero
form, a number up to 255 for imm8, a level name or an index up to 3 for lvl2, one of two names for bit1. -/
def AsmLine.wf (a : AsmLine) : Bool :=
  match a.mnemonic, a.operand with
  | .enterDot, none => true
  | .enterCtrl, none => true
  | .latch, none => true
  | .push0, none => true
  | .push1, none => true
  | .shift, some (.number k) => decide (k ≤ 255)
  | .setBrt, some (.number k) => decide (k ≤ 255)
  | .setCur, some (.number k) => decide (k ≤ 3)
  | .setCur, some (.name w) => w == .ma40 || w == .ma64 || w == .ma93 || w == .ma128
  | .setWake, some (.name w) => w == .wake || w == .sleep
  | .setFan, some (.name w) => w == .serial || w == .simultaneous
  | .setPre, some (.name w) => w == .direct || w == .div8
  | _, _ => false

end Sys2Proof
end

