-- ==== Sys2Proof/Decode.lean ====
section
/-! DEFINITION. The decoder of 30_encoding.md R43 to R46, total on every 16-bit word, the encoder written from
the same tables, the opcode table itself, and the assembler of R54. -/

namespace Sys2Proof

/-- `OP`: bits 15:8 of a command word (R43). -/
def opField (w : Word) : Byte := w.extractLsb' 8 8

/-- `OPD`: bits 7:0 of a command word (R43). -/
def opdField (w : Word) : Byte := w.extractLsb' 0 8

/-- Why a word selects no command (R46). -/
inductive Reject where
  /-- `OP` is unassigned (R44). -/
  | unassignedOpcode (op : Byte)
  /-- `OP` is assigned and a reserved operand bit is 1 (R45). -/
  | reservedOperandBit (op opd : Byte)
  deriving DecidableEq, Repr

/-- The zero form: `OPD` must be `0x00` (R45). -/
def zeroForm (op opd : Byte) (i : Instr) : Except Reject Instr :=
  if opd = 0 then .ok i else .error (.reservedOperandBit op opd)

/-- The lvl2 form: `OPD[1:0]` is the level index, `OPD[7:2]` must be 0 (R45). -/
def lvl2Form (op opd : Byte) (f : PeakLevel → Instr) : Except Reject Instr :=
  match opd.toNat with
  | 0 => .ok (f .ma40)
  | 1 => .ok (f .ma64)
  | 2 => .ok (f .ma93)
  | 3 => .ok (f .ma128)
  | _ => .error (.reservedOperandBit op opd)

/-- The bit1 form: `OPD[0]` is the operand, `OPD[7:1]` must be 0 (R45). -/
def bit1Form (op opd : Byte) (zero one : Instr) : Except Reject Instr :=
  match opd.toNat with
  | 0 => .ok zero
  | 1 => .ok one
  | _ => .error (.reservedOperandBit op opd)

/-- The opcode map of R44 with the operand forms of R45. -/
def decodeFields (op opd : Byte) : Except Reject Instr :=
  match op.toNat with
  | 0x01 => zeroForm op opd .enterDot
  | 0x02 => zeroForm op opd .enterCtrl
  | 0x03 => .ok (.shift opd)
  | 0x04 => zeroForm op opd .latch
  | 0x10 => .ok (.setBrt opd)
  | 0x11 => lvl2Form op opd .setCur
  | 0x12 => bit1Form op opd (.setWake .sleep) (.setWake .wake)
  | 0x13 => bit1Form op opd (.setFan .serial) (.setFan .simultaneous)
  | 0x14 => bit1Form op opd (.setPre .direct) (.setPre .div8)
  | 0x20 => zeroForm op opd .push0
  | 0x21 => zeroForm op opd .push1
  | _ => .error (.unassignedOpcode op)

/-- The decoder: the command a word selects, or why it selects none (R44 to R46). -/
def decode (w : Word) : Except Reject Instr := decodeFields (opField w) (opdField w)

/-- The opcode of each command (R44). -/
def opcode : Instr → Byte
  | .enterDot => 0x01
  | .enterCtrl => 0x02
  | .shift _ => 0x03
  | .latch => 0x04
  | .setBrt _ => 0x10
  | .setCur _ => 0x11
  | .setWake _ => 0x12
  | .setFan _ => 0x13
  | .setPre _ => 0x14
  | .push0 => 0x20
  | .push1 => 0x21

/-- The operand byte of each command (R45). -/
def operandByte : Instr → Byte
  | .shift b => b
  | .setBrt b => b
  | .setCur .ma40 => 0
  | .setCur .ma64 => 1
  | .setCur .ma93 => 2
  | .setCur .ma128 => 3
  | .setWake .sleep => 0
  | .setWake .wake => 1
  | .setFan .serial => 0
  | .setFan .simultaneous => 1
  | .setPre .direct => 0
  | .setPre .div8 => 1
  | .enterDot => 0
  | .enterCtrl => 0
  | .latch => 0
  | .push0 => 0
  | .push1 => 0

/-- The encoder: `OP` above `OPD` (R43). -/
def encode (i : Instr) : Word := opcode i ++ operandByte i

/-- A row of the decoder table of R46. -/
structure OpcodeRow where
  mnemonic : Mnemonic
  value : Word
  mask : Word
  deriving DecidableEq, Repr

/-- "A word `w` selects a command when `w & mask = match`" (R46). -/
def OpcodeRow.selects (r : OpcodeRow) (w : Word) : Bool := (w &&& r.mask) == r.value

/-- The decoder table of R46, row for row. -/
def opcodeTable : List OpcodeRow :=
  [⟨.enterDot, 0x0100, 0xFFFF⟩, ⟨.enterCtrl, 0x0200, 0xFFFF⟩, ⟨.shift, 0x0300, 0xFF00⟩,
   ⟨.latch, 0x0400, 0xFFFF⟩, ⟨.setBrt, 0x1000, 0xFF00⟩, ⟨.setCur, 0x1100, 0xFFFC⟩,
   ⟨.setWake, 0x1200, 0xFFFE⟩, ⟨.setFan, 0x1300, 0xFFFE⟩, ⟨.setPre, 0x1400, 0xFFFE⟩,
   ⟨.push0, 0x2000, 0xFFFF⟩, ⟨.push1, 0x2100, 0xFFFF⟩]

/-- The mnemonic of a command (R44). -/
def mnemonicOf : Instr → Mnemonic
  | .enterDot => .enterDot
  | .enterCtrl => .enterCtrl
  | .shift _ => .shift
  | .latch => .latch
  | .setBrt _ => .setBrt
  | .setCur _ => .setCur
  | .setWake _ => .setWake
  | .setFan _ => .setFan
  | .setPre _ => .setPre
  | .push0 => .push0
  | .push1 => .push1

/-- The instruction the decoder reads from a word numbered as the opcode table numbers it: the table's bits
15:0 are the command word's own bits (R43). A number that needs more than 16 bits is no command word. -/
def decodeTableWord (nbits w : Nat) : Option Instr :=
  if w % 2 ^ nbits < 2 ^ 16 then
    match decode (BitVec.ofNat 16 (w % 2 ^ nbits)) with
    | .ok i => some i
    | .error _ => none
  else none

/-- A written level: one of the four names, or the index 0 to 3 (R54). -/
def asmLevel : AsmOperand → Option PeakLevel
  | .number 0 => some .ma40
  | .number 1 => some .ma64
  | .number 2 => some .ma93
  | .number 3 => some .ma128
  | .name .ma40 => some .ma40
  | .name .ma64 => some .ma64
  | .name .ma93 => some .ma93
  | .name .ma128 => some .ma128
  | _ => none

/-- A written byte: a number 0 to 255 (R54). -/
def asmByte : AsmOperand → Option Byte
  | .number k => if k ≤ 255 then some (BitVec.ofNat 8 k) else none
  | .name _ => none

/-- The command a written line stands for, or none where the line is ill-formed (R54). -/
def assemble (a : AsmLine) : Option Instr :=
  match a.mnemonic, a.operand with
  | .enterDot, none => some .enterDot
  | .enterCtrl, none => some .enterCtrl
  | .latch, none => some .latch
  | .push0, none => some .push0
  | .push1, none => some .push1
  | .shift, some o => (asmByte o).map .shift
  | .setBrt, some o => (asmByte o).map .setBrt
  | .setCur, some o => (asmLevel o).map .setCur
  | .setWake, some (.name .wake) => some (.setWake .wake)
  | .setWake, some (.name .sleep) => some (.setWake .sleep)
  | .setFan, some (.name .serial) => some (.setFan .serial)
  | .setFan, some (.name .simultaneous) => some (.setFan .simultaneous)
  | .setPre, some (.name .direct) => some (.setPre .direct)
  | .setPre, some (.name .div8) => some (.setPre .div8)
  | _, _ => none

end Sys2Proof
end

