-- ==== Sys2Proof/Machine/State.lean ====
section
/-! DEFINITION. The state of the block (10_state.md R7), the model's own fields for its environment, the ways a
construction can end without a block, and the state right after reset (70_reset_and_hazards.md R102). -/

namespace Sys2Proof.Machine

/-- The level last driven on a line (R8): `unknown` where no line set on it has succeeded since construction,
or the last one failed. -/
inductive Level where
  | low | high | unknown
  deriving DecidableEq, Repr, Inhabited

/-- The four protocol line outputs (R2, R7). -/
structure Lines where
  data : Level
  clk : Level
  ce : Level
  rs : Level
  deriving DecidableEq, Repr, Inhabited

/-- One line set a command asks for (40_transfer_engine.md R60). -/
structure LineSet where
  line : Line
  level : Drive
  deriving DecidableEq, Repr, Inhabited

/-- An event of TRACE: line, level asked for, outcome (R23). -/
structure Event where
  line : Line
  level : Drive
  outcome : Answer
  deriving DecidableEq, Repr, Inhabited

/-- The lifecycle ghost (R20). -/
inductive Life where
  | uninitialized | active
  deriving DecidableEq, Repr, Inhabited

/-- What a command returns to the host (60_exceptions.md R86, R87). -/
inductive Result where
  | ok
  | lineError (line : Line) (cause : Cause)
  | pinNotConfigured
  | valueTooLong
  | illegalCommand (word : Word)
  | configRefused (n : Nat)
  deriving DecidableEq, Repr, Inhabited

/-- One request of the host: a command word, or a pseudo-operation of which `done` commands have returned Ok
(R14, 30_encoding.md R55; log 1, log 9). -/
inductive Request where
  | word (w : Word)
  | pseudo (op : PseudoOp) (done : Nat)
  deriving DecidableEq, Repr, Inhabited

/-- The machine. The fields down to `n` are the spec's (R7); the others are the model's own (INVENTORY.md). -/
structure State where
  /-- `line[DATA]`, `line[CLK]`, `line[CE]`, `line[RS]` (R8 to R12). -/
  lines : Lines
  /-- Control Word 0 (R15). -/
  cw0 : Byte
  /-- Control Word 1 (R16). -/
  cw1 : Byte
  /-- The data-out fan-out mode mirror (R17). -/
  dom : FanMode
  /-- The lifecycle ghost (R20). -/
  life : Life
  /-- Every line set performed, in order (R23). -/
  trace : List Event
  /-- The width parameter (R19). -/
  n : Nat
  /-- Parameter `PEAK_CODE` (R5; log 4). -/
  peakCode : PeakCode
  /-- Parameter `PRESCALER_DIV8` (R5; log 4). -/
  prescalerDiv8 : BitVec 1
  /-- Parameter `Cause_L` of each line (R5; log 4, log 5). -/
  causes : CauseTypes
  /-- The environment's answers to the coming line sets, the next one first (R60; log 3). -/
  answers : List Answer
  /-- What the host issues, the next request first (R14; log 1). -/
  requests : List Request
  /-- What the last command returned to the host (R21; log 2). -/
  result : Option Result
  deriving DecidableEq, Repr

/-- The ways construction ends without a block. No step and no command raises one. -/
inductive Fault where
  /-- `ConfigRefused(N)`: raised by `construct` with `N < 4`, before any line set; no block exists (R91). Safe:
  the spec gives no block after it. -/
  | configRefused (n : Nat)
  /-- `LineError(L, cause)` during construction: raised by `construct` at its first failing line set; `events`
  are the line sets that happened, the failing one last; no block exists (R103). Safe. -/
  | constructionFailed (line : Line) (cause : Cause) (events : List Event)
  deriving DecidableEq, Repr

/-- Reasons to refuse. -/
inductive Refusal where
  /-- An instruction without a meaning: raised by a refused arm of `exec`. There is none. Safe. -/
  | notModelled (mnemonic : String)
  deriving DecidableEq, Repr

/-- What a step, a command or a construction ends in. -/
abbrev Outcome := Host.Outcome State Fault Refusal

/-- The machine right after reset: a construction that returned Ok (R101, R102), with the free construction
arguments of `Config.args`. `answers`, `requests` and `result` are DESIGN CHOICES (logs 1 to 3). -/
def State.reset : State where
  lines := ⟨.low, .unknown, .high, .unknown⟩
  cw0 := 0b01001100 ||| (Config.args.peakCode.ma40.setWidth 8 <<< 4)
  cw1 := 0b10000000 ||| ((1 - Config.args.prescalerDiv8).setWidth 8 <<< 1)
  dom := .serial
  life := .uninitialized
  trace :=
    [⟨.data, .low, .ok⟩, ⟨.ce, .high, .ok⟩]
      ++ (if Config.args.hasBlank then [⟨.blank, .high, .ok⟩] else [])
      ++ (if Config.args.hasOscSel then [⟨.oscSel, .high, .ok⟩] else [])
      ++ (if Config.args.hasReset then [⟨.reset, .high, .ok⟩] else [])
  n := Config.args.n
  peakCode := Config.args.peakCode
  prescalerDiv8 := Config.args.prescalerDiv8
  causes := Config.args.causes
  answers := []
  requests := []
  result := none

end Sys2Proof.Machine
end

