-- ==== Sys2Proof/Machine/Flags.lean ====
section
/-! DEFINITION. The block has no status flags and no condition codes (10_state.md R21). What a command reports
is its result; this file gives the numeric codes of results and lines (60_exceptions.md R87). -/

namespace Sys2Proof.Machine

/-- The result code of R87. -/
def resultCode : Result → Nat
  | .ok => 0
  | .lineError _ _ => 1
  | .pinNotConfigured => 2
  | .valueTooLong => 3
  | .illegalCommand _ => 4
  | .configRefused _ => 5

/-- The line code of R87. -/
def lineCode : Line → Nat
  | .data => 0
  | .clk => 1
  | .ce => 2
  | .rs => 3
  | .blank => 4
  | .oscSel => 5
  | .reset => 6

end Sys2Proof.Machine
end

