-- ==== Sys2Proof/Machine/Operands.lean ====
section
/-! DEFINITION. What operands and register fields mean: the level of a bit, field insertion (30_encoding.md
R51), the codes of the operand settings, and the field extractions of R52. -/

namespace Sys2Proof.Machine

/-- The level a set of that level leaves on its line (R60). -/
def driveLevel : Drive → Level
  | .low => .low
  | .high => .high

/-- `lvl(b)`: the level of a bit value (00_scope.md section 6). -/
def bitLevel (b : Bool) : Drive := if b then .high else .low

/-- Field insertion: write the field of `width` bits from bit `lo` up of register `r` with `v` (R51). -/
def insertField (r : Byte) (lo width : Nat) (v : Byte) : Byte :=
  let mask : Byte := ((1 <<< width) - 1) <<< lo
  (r &&& ~~~mask) ||| ((v <<< lo) &&& mask)

/-- `Cause_L` of the line (R5). -/
def causeTypeOf (ts : CauseTypes) : Line → CauseType
  | .data => ts.data
  | .clk => ts.clk
  | .ce => ts.ce
  | .rs => ts.rs
  | .blank => ts.blank
  | .oscSel => ts.oscSel
  | .reset => ts.reset

/-- The cause is a value of the error type (R5, R86). -/
def isCauseOf (t : CauseType) (c : Cause) : Bool :=
  match t.values with
  | some k => decide (c.token < k)
  | none => true

/-- The answers a line with that error type can give: ok, or an error with a cause of the type. A draw that is no
such answer counts as ok (R60; log 5). -/
def answerWithin (t : CauseType) : Answer → Answer
  | .ok => .ok
  | .err c => if isCauseOf t c then .err c else .ok

/-- `PEAK_CODE(level)` (R5). -/
def codeOfLevel (p : PeakCode) : PeakLevel → BitVec 2
  | .ma40 => p.ma40
  | .ma64 => p.ma64
  | .ma93 => p.ma93
  | .ma128 => p.ma128

/-- `PEAK_CODE⁻¹(code)` (R52): the level whose code it is; a bijective table has one for each code. -/
def levelOfCode (p : PeakCode) (c : BitVec 2) : PeakLevel :=
  if c = p.ma40 then .ma40 else if c = p.ma64 then .ma64 else if c = p.ma93 then .ma93 else .ma128

/-- The bit value of a wake setting: 1 = wake, 0 = sleep (R45, R73). -/
def wakeBit : WakeMode → BitVec 1
  | .sleep => 0
  | .wake => 1

/-- The bit value of a fan-out mode: 0 = serial, 1 = simultaneous (R45, R74). -/
def fanBit : FanMode → BitVec 1
  | .serial => 0
  | .simultaneous => 1

/-- The CW1 bit 1 value of a prescaler setting: `PRESCALER_DIV8` or its complement (R75). -/
def prescalerBit (div8 : BitVec 1) : PrescalerMode → BitVec 1
  | .div8 => div8
  | .direct => 1 - div8

/-- `brightness(CW0)` (R52). -/
def brightness (cw0 : Byte) : BitVec 4 := cw0.extractLsb' 0 4

/-- `peak_level(CW0)` (R52). -/
def peakLevel (p : PeakCode) (cw0 : Byte) : PeakLevel := levelOfCode p (cw0.extractLsb' 4 2)

/-- `awake(CW0)` (R52). -/
def awake (cw0 : Byte) : Bool := cw0.getLsbD 6

/-- `tag(w)`: the word-select tag (R52, 20_memory.md R27). -/
def tag (w : Byte) : Bool := w.getLsbD 7

/-- `prescaler(CW1)` (R52). -/
def prescaler (div8 : BitVec 1) (cw1 : Byte) : PrescalerMode :=
  if cw1.extractLsb' 1 1 = div8 then .div8 else .direct

/-- `data_out(CW1)` (R52). -/
def dataOut (cw1 : Byte) : FanMode := if cw1.getLsbD 0 then .simultaneous else .serial

end Sys2Proof.Machine
end

