-- ==== Sys2Proof/Machine/Ops.lean ====
section
/-! DEFINITION. The shared operations: the line set and sequences of line sets (40_transfer_engine.md R60),
returning a result to the host, raising an error (60_exceptions.md R88, R90), register writes, the sets of each
engine command, and the repeat count of a push (42_control_word_push.md R79). -/

namespace Sys2Proof.Machine

/-- `line[L] <- v`. The optional lines' levels are no state of the block (R101). -/
def Lines.put (ls : Lines) (l : Line) (v : Level) : Lines :=
  match l with
  | .data => { ls with data := v }
  | .clk => { ls with clk := v }
  | .ce => { ls with ce := v }
  | .rs => { ls with rs := v }
  | .blank => ls
  | .oscSel => ls
  | .reset => ls

/-- What an event leaves on its line: the level asked for, or Unknown where the set failed (R60). -/
def Lines.afterEvent (ls : Lines) (e : Event) : Lines :=
  match e.outcome with
  | .ok => ls.put e.line (driveLevel e.level)
  | .err _ => ls.put e.line .unknown

/-- The levels a list of events leaves, from no line known (R8). -/
def linesAfter (es : List Event) : Lines :=
  es.foldl Lines.afterEvent ⟨.unknown, .unknown, .unknown, .unknown⟩

/-- The oracle's answer to `x` if it is the `j`-th line set from now on (counting from 0): the environment's
`j`-th pending answer, or the free value for that event, of the line's own error type (R5, R60; log 3, log 5). -/
def State.answerAt (s : State) (j : Nat) (x : LineSet) : Answer :=
  let drawn :=
    match s.answers[j]? with
    | some a => a
    | none => Config.lineOracle (s.trace.length + j) x.line x.level
  answerWithin (causeTypeOf s.causes x.line) drawn

/-- The event of a line set that got an answer (R23). -/
def LineSet.event (x : LineSet) (a : Answer) : Event := ⟨x.line, x.level, a⟩

/-- Record an event: TRACE grows by it, its line takes the level it leaves, one pending answer is used up
(R60). -/
def State.record (s : State) (e : Event) : State :=
  { s with lines := s.lines.afterEvent e, trace := s.trace ++ [e], answers := s.answers.drop 1 }

/-- How a sequence of line sets ends: all of them ok, or at the first failing one, with its line and cause
(R88). -/
inductive Ran where
  | done (s : State)
  | failed (line : Line) (cause : Cause) (s : State)
  deriving DecidableEq, Repr

/-- `SetLine` for each set in order; the first failure ends the sequence (R60, R88). -/
def runSets : List LineSet → State → Ran
  | [], s => .done s
  | x :: xs, s =>
    match s.answerAt 0 x with
    | .ok => runSets xs (s.record (x.event .ok))
    | .err c => .failed x.line c (s.record (x.event (.err c)))

/-- A command returns Ok to the host (R21, R86). -/
def State.returnOk (s : State) : State := { s with result := some .ok }

/-- A command raises an error: the error is the command's result, and nothing is saved anywhere else (R88 to
R90, R95). The block has no handler: the next command is taken normally. -/
def State.raise (s : State) (r : Result) : State := { s with result := some r }

/-- A command that is a sequence of line sets: it performs them and returns Ok, or ends with `LineError` at the
first that fails (R61, R88). -/
def State.perform (s : State) (xs : List LineSet) : State :=
  match runSets xs s with
  | .done t => t.returnOk
  | .failed l c t => t.raise (.lineError l c)

/-- Write `CW0`. -/
def State.writeCw0 (s : State) (v : Byte) : State := { s with cw0 := v }

/-- Write `CW1`. -/
def State.writeCw1 (s : State) (v : Byte) : State := { s with cw1 := v }

/-- Write `DOM`. -/
def State.writeDom (s : State) (m : FanMode) : State := { s with dom := m }

/-- `LIFE <- Active` (R105). -/
def State.activate (s : State) : State := { s with life := .active }

/-- Set the host's queue of requests. -/
def State.withRequests (s : State) (qs : List Request) : State := { s with requests := qs }

/-- The line sets of `ENTER_DOT` (R62). -/
def enterDotSets : List LineSet := [⟨.clk, .high⟩, ⟨.rs, .low⟩, ⟨.ce, .low⟩]

/-- The line sets of `ENTER_CTRL` (R63). -/
def enterCtrlSets : List LineSet := [⟨.clk, .high⟩, ⟨.rs, .high⟩, ⟨.ce, .low⟩]

/-- The three line sets that shift out bit `i` of `b` (R50). -/
def bitSets (b : Byte) (i : Nat) : List LineSet :=
  [⟨.clk, .low⟩, ⟨.data, bitLevel (b.getLsbD i)⟩, ⟨.clk, .high⟩]

/-- The 24 line sets of `SHIFT b`, most significant bit first (R50, R64). -/
def shiftSets (b : Byte) : List LineSet := [7, 6, 5, 4, 3, 2, 1, 0].flatMap (bitSets b)

/-- The line sets of `LATCH` (R65). -/
def latchSets : List LineSet := [⟨.ce, .high⟩, ⟨.clk, .low⟩]

/-- `RepeatCount()`: from `DOM`, not from `CW1[0]` (R79, C3). -/
def State.repeatCount (s : State) : Nat :=
  match s.dom with
  | .serial => s.n / deviceChars
  | .simultaneous => 1

/-- The line sets of a push of `r` copies of `w`: one frame, one latch (R80, D9). -/
def pushSets (r : Nat) (w : Byte) : List LineSet :=
  enterCtrlSets ++ (List.replicate r (shiftSets w)).flatten ++ latchSets

end Sys2Proof.Machine
end

