-- ==== Sys2Proof/Machine/Encoder.lean ====
section
/-! DEFINITION. The five control-word encoder commands (41_control_word_encoder.md): each writes one field of
one register and returns Ok (R70). -/

namespace Sys2Proof.Machine

/-- `SETBRT b`: `CW0[3:0] <- b[3:0]` (R71). -/
def execSetBrt (b : Byte) (s : State) : Outcome :=
  .next (s.writeCw0 (insertField s.cw0 0 4 b)).returnOk

/-- `SETCUR l`: `CW0[5:4] <- PEAK_CODE(level)` (R72). -/
def execSetCur (l : PeakLevel) (s : State) : Outcome :=
  .next (s.writeCw0 (insertField s.cw0 4 2 ((codeOfLevel s.peakCode l).setWidth 8))).returnOk

/-- `SETWAKE v`: `CW0[6] <- v` (R73). -/
def execSetWake (v : WakeMode) (s : State) : Outcome :=
  .next (s.writeCw0 (insertField s.cw0 6 1 ((wakeBit v).setWidth 8))).returnOk

/-- `SETFAN v`: `CW1[0] <- v`; `DOM` is not written (R74). -/
def execSetFan (v : FanMode) (s : State) : Outcome :=
  .next (s.writeCw1 (insertField s.cw1 0 1 ((fanBit v).setWidth 8))).returnOk

/-- `SETPRE v`: `CW1[1] <- (v = 1) ? PRESCALER_DIV8 : 1 - PRESCALER_DIV8` (R75). -/
def execSetPre (v : PrescalerMode) (s : State) : Outcome :=
  .next (s.writeCw1 (insertField s.cw1 1 1 ((prescalerBit s.prescalerDiv8 v).setWidth 8))).returnOk

end Sys2Proof.Machine
end

