-- ==== Sys2Proof/Machine/Engine.lean ====
section
/-! DEFINITION. The four transfer engine commands (40_transfer_engine.md). -/

namespace Sys2Proof.Machine

/-- `ENTER_DOT` (R62). -/
def execEnterDot (s : State) : Outcome := .next (s.perform enterDotSets)

/-- `ENTER_CTRL` (R63). -/
def execEnterCtrl (s : State) : Outcome := .next (s.perform enterCtrlSets)

/-- `SHIFT b` (R64). -/
def execShift (b : Byte) (s : State) : Outcome := .next (s.perform (shiftSets b))

/-- `LATCH` (R65). -/
def execLatch (s : State) : Outcome := .next (s.perform latchSets)

end Sys2Proof.Machine
end

