-- ==== Sys2Proof/Machine/Push.lean ====
section
/-! DEFINITION. The two control-word pushes (42_control_word_push.md). -/

namespace Sys2Proof.Machine

/-- `PUSH0`: `CW0` in one control frame, as often as `DOM` asks for (R80). -/
def execPush0 (s : State) : Outcome := .next (s.perform (pushSets s.repeatCount s.cw0))

/-- `PUSH1`: the same with `CW1`; `DOM <- data_out(CW1)` only after the last line set is ok (R81, R82). -/
def execPush1 (s : State) : Outcome :=
  .next <|
    match runSets (pushSets s.repeatCount s.cw1) s with
    | .done t => (t.writeDom (dataOut s.cw1)).returnOk
    | .failed l c t => t.raise (.lineError l c)

end Sys2Proof.Machine
end

