-- ==== Sys2Proof/Machine/Dispatch.lean ====
section
/-! DEFINITION. exec: the meaning of every command of the opcode table, one arm each. -/

namespace Sys2Proof.Machine

def exec (i : Instr) (s : State) : Host.Outcome State Fault Refusal :=
  match i with
  | .enterDot => Sys2Proof.Machine.execEnterDot s
  | .enterCtrl => Sys2Proof.Machine.execEnterCtrl s
  | .shift b => Sys2Proof.Machine.execShift b s
  | .latch => Sys2Proof.Machine.execLatch s
  | .setBrt b => Sys2Proof.Machine.execSetBrt b s
  | .setCur l => Sys2Proof.Machine.execSetCur l s
  | .setWake v => Sys2Proof.Machine.execSetWake v s
  | .setFan v => Sys2Proof.Machine.execSetFan v s
  | .setPre v => Sys2Proof.Machine.execSetPre v s
  | .push0 => Sys2Proof.Machine.execPush0 s
  | .push1 => Sys2Proof.Machine.execPush1 s

end Sys2Proof.Machine
end

