-- ==== Sys2Proof/Machine/HostPort.lean ====
section
/-! DEFINITION. The host's side of the command interface: the expansion of pseudo-operations (30_encoding.md
R55 to R58), which command is taken next (10_state.md R14), what follows a command's result (R56, R105), and the
read port (R22). -/

namespace Sys2Proof.Machine

/-- One dot frame of the bytes in argument order (R57). -/
def writeDotsCommands (bytes : List Byte) : List Instr :=
  .enterDot :: bytes.map .shift ++ [.latch]

/-- `write_dots` of a full image of bytes `0x00` (R58). -/
def clearCommands (n : Nat) : List Instr :=
  writeDotsCommands (List.replicate (cellColumns * n) 0x00)

/-- The commands of a pseudo-operation for a chain of `n` characters, in order (R55). -/
def expand (n : Nat) : PseudoOp → List Instr
  | .setBrightness b => [.setBrt b, .push0]
  | .setPeakCurrent l => [.setCur l, .push0]
  | .setSleep asleep => [.setWake (if asleep then .sleep else .wake), .push0]
  | .displaySleep => [.setWake .sleep, .push0]
  | .displayWake => [.setWake .wake, .push0]
  | .setSerialDataOut => [.setFan .serial, .push1]
  | .setSimultaneousDataOut => [.setFan .simultaneous, .push1]
  | .setOscillatorPrescaler p => [.setPre p, .push1]
  | .writeDots bytes => writeDotsCommands bytes
  | .printColumns bytes => writeDotsCommands bytes
  | .clear => clearCommands n
  | .beginInit => clearCommands n ++ [.push0, .push1]

/-- The command words a pseudo-operation is listed as (R59). -/
def listing (n : Nat) (op : PseudoOp) : List Word := (expand n op).map encode

/-- The last effect of a pseudo-operation all of whose commands returned Ok: `begin` makes the block Active
(R104, R105). -/
def State.finish (s : State) : PseudoOp → State
  | .beginInit => s.activate
  | _ => s

/-- What the block takes next. -/
inductive Fetched where
  | nothing
  | illegal (w : Word)
  | command (i : Instr)
  deriving DecidableEq, Repr

/-- The next command the host issues: the first request's word, decoded, or the next command of the
pseudo-operation under way (R14, R46, R55). -/
def State.fetch (s : State) : Fetched :=
  match s.requests with
  | [] => .nothing
  | .word w :: _ =>
    match decode w with
    | .ok i => .command i
    | .error _ => .illegal w
  | .pseudo op done :: _ =>
    match (expand s.n op)[done]? with
    | some i => .command i
    | none => .nothing

/-- Drop the first request, if there is one. -/
def State.dropRequest (s : State) : State := s.withRequests (s.requests.drop 1)

/-- What follows a command's result. A single word is done. In a pseudo-operation an error ends it, and no
later command of it is issued (R56); after Ok its next command follows, and after its last one it is done. -/
def State.settle (s : State) : State :=
  match s.requests with
  | .pseudo op done :: qs =>
    if s.result = some .ok then
      if done + 1 < (expand s.n op).length then s.withRequests (.pseudo op (done + 1) :: qs)
      else (s.finish op).dropRequest
    else s.dropRequest
  | _ => s.dropRequest

/-- What the host may read between commands (R22). -/
inductive ReadTarget where
  | cw0 | cw1 | dom | n
  deriving DecidableEq, Repr

/-- A value the read port gives. -/
inductive ReadValue where
  | byte (b : Byte)
  | mode (m : FanMode)
  | width (n : Nat)
  deriving DecidableEq, Repr

/-- The read port: a function of the state, so without side effect and without event (R22, D19). -/
def hostRead (s : State) : ReadTarget → ReadValue
  | .cw0 => .byte s.cw0
  | .cw1 => .byte s.cw1
  | .dom => .mode s.dom
  | .n => .width s.n

end Sys2Proof.Machine
end

