-- ==== Sys2Proof/Machine/Step.lean ====
section
/-! DEFINITION. One step: the block takes the next command of the host and runs it to completion or to its
first error (10_state.md R14). With nothing issued it waits (20_memory.md R35). -/

namespace Sys2Proof.Machine

def step (s : State) : Host.Outcome State Fault Refusal :=
  match s.fetch with
  | .nothing => .next s.dropRequest
  | .illegal w => .next (s.raise (.illegalCommand w)).settle
  | .command i =>
    match exec i s with
    | .next t => .next t.settle
    | .fault f => .fault f
    | .refused r => .refused r

/-- The state in which the host issues that word next (log 7). -/
def State.withFetchWord (s : State) (nbits w : Nat) : State :=
  { s with requests := .word (BitVec.ofNat 16 (w % 2 ^ nbits)) :: s.requests }

end Sys2Proof.Machine
end

