-- ==== Sys2Proof/Machine/Assembler.lean ====
section
/-! DEFINITION. Reading assembler text (30_encoding.md R54): one command a line, a mnemonic and at most one
operand, numbers in decimal or 0x hexadecimal, a comment from ';' on (log 14). -/

namespace Sys2Proof.Machine

/-- A character that separates words. -/
def isBlank (c : Char) : Bool := c == ' ' || c == '\t'

/-- The words of a line, cut at blanks. -/
def wordsOf (cs : List Char) : List (List Char) :=
  let cut := cs.foldr
    (fun c (acc : List Char × List (List Char)) =>
      if isBlank c then ([], if acc.1.isEmpty then acc.2 else acc.1 :: acc.2) else (c :: acc.1, acc.2))
    ([], [])
  if cut.1.isEmpty then cut.2 else cut.1 :: cut.2

/-- The value of a digit in the base, where it is one. -/
def digitOf (base : Nat) (c : Char) : Option Nat :=
  let k :=
    if '0' ≤ c ∧ c ≤ '9' then c.toNat - '0'.toNat
    else if 'a' ≤ c ∧ c ≤ 'f' then c.toNat - 'a'.toNat + 10
    else if 'A' ≤ c ∧ c ≤ 'F' then c.toNat - 'A'.toNat + 10
    else base
  if k < base then some k else none

/-- The number a run of digits spells, on top of the number so far. -/
def digitsFrom (base : Nat) : Nat → List Char → Option Nat
  | acc, [] => some acc
  | acc, c :: cs =>
    match digitOf base c with
    | some k => digitsFrom base (acc * base + k) cs
    | none => none

/-- A written number, decimal or `0x` hexadecimal (R54). -/
def numberOf : List Char → Option Nat
  | [] => none
  | '0' :: 'x' :: c :: cs => digitsFrom 16 0 (c :: cs)
  | c :: cs => digitsFrom 10 0 (c :: cs)

/-- The mnemonics as written (R44). -/
def mnemonicSpellings : List (String × Mnemonic) :=
  [("ENTER_DOT", .enterDot), ("ENTER_CTRL", .enterCtrl), ("SHIFT", .shift), ("LATCH", .latch),
   ("SETBRT", .setBrt), ("SETCUR", .setCur), ("SETWAKE", .setWake), ("SETFAN", .setFan),
   ("SETPRE", .setPre), ("PUSH0", .push0), ("PUSH1", .push1)]

/-- The operand names as written (R54). -/
def nameSpellings : List (String × OperandName) :=
  [("4.0mA", .ma40), ("6.4mA", .ma64), ("9.3mA", .ma93), ("12.8mA", .ma128), ("wake", .wake),
   ("sleep", .sleep), ("serial", .serial), ("simultaneous", .simultaneous), ("direct", .direct),
   ("div8", .div8)]

/-- The entry a word spells. -/
def spelled {α : Type} (table : List (String × α)) (word : List Char) : Option α :=
  (table.find? fun row => row.1.toList == word).map Prod.snd

/-- A written operand: a name, or a number (R54). -/
def operandOf (word : List Char) : Option AsmOperand :=
  match spelled nameSpellings word with
  | some w => some (.name w)
  | none => (numberOf word).map .number

/-- What a line of text is: nothing (empty, or a comment), a written command, or not in the syntax. -/
inductive TextLine where
  | empty
  | line (a : AsmLine)
  | malformed
  deriving DecidableEq, Repr

/-- Read one line of text (R54). -/
def readLine (text : String) : TextLine :=
  match wordsOf (text.toList.takeWhile (· != ';')) with
  | [] => .empty
  | [m] =>
    match spelled mnemonicSpellings m with
    | some mn => .line ⟨mn, none⟩
    | none => .malformed
  | [m, o] =>
    match spelled mnemonicSpellings m, operandOf o with
    | some mn, some op => .line ⟨mn, some op⟩
    | _, _ => .malformed
  | _ => .malformed

/-- The command words of a listing, or none where a line is not in the syntax (R54, R59). -/
def assembleText : List String → Option (List Word)
  | [] => some []
  | text :: rest =>
    match readLine text with
    | .empty => assembleText rest
    | .line a =>
      match assemble a, assembleText rest with
      | some i, some ws => some (encode i :: ws)
      | _, _ => none
    | .malformed => none

end Sys2Proof.Machine
end

