-- ==== Sys2Proof/Machine/Construction.lean ====
section
/-! DEFINITION. Construction, the block's reset (70_reset_and_hazards.md R101 to R103). -/

namespace Sys2Proof.Machine

/-- The line sets of construction, in the source's listing order; an absent optional line gets none (R101,
D14, C6). -/
def constructionSets (a : ConstructArgs) : List LineSet :=
  [⟨.data, .low⟩, ⟨.ce, .high⟩]
    ++ (if a.hasBlank then [⟨.blank, .high⟩] else [])
    ++ (if a.hasOscSel then [⟨.oscSel, .high⟩] else [])
    ++ (if a.hasReset then [⟨.reset, .high⟩] else [])

/-- The block before construction's first line set, in an environment that will give these answers (R101). -/
def preConstruction (a : ConstructArgs) (answers : List Answer) : State where
  lines := ⟨.unknown, .unknown, .unknown, .unknown⟩
  cw0 := 0b01001100 ||| ((codeOfLevel a.peakCode .ma40).setWidth 8 <<< 4)
  cw1 := 0b10000000 ||| ((1 - a.prescalerDiv8).setWidth 8 <<< 1)
  dom := .serial
  life := .uninitialized
  trace := []
  n := a.n
  peakCode := a.peakCode
  prescalerDiv8 := a.prescalerDiv8
  causes := a.causes
  answers := answers
  requests := []
  result := none

/-- `Construct(N)`: the block, or why there is none (R91, R101, R103). -/
def construct (a : ConstructArgs) (answers : List Answer) : Outcome :=
  if a.n < 4 then .fault (.configRefused a.n)
  else
    match runSets (constructionSets a) (preConstruction a answers) with
    | .done s => .next s
    | .failed l c s => .fault (.constructionFailed l c s.trace)

end Sys2Proof.Machine
end

