-- ==== Sys2Proof/Machine/Wire.lean ====
section
/-! DEFINITION. Reading the wire (20_memory.md R39 to R42): what frames and bits the events of TRACE may be read
as. Where the spec says an event "may or may not" have opened, closed or sampled, both readings are listed; the
choices are independent of each other (log 11). The engine's rules do not read any of this. -/

namespace Sys2Proof.Machine

/-- One sampled bit: unknown where the Data line was (R40). -/
inductive Sample where
  | zero | one | unknown
  deriving DecidableEq, Repr, Inhabited

/-- What a frame addresses (R26, R39): `unknown` if RS was Unknown when it opened, `unspecified` once RS was set
to another level inside it, or a set of RS failed inside it (log 12). -/
inductive Target where
  | dot | control | unknown | unspecified
  deriving DecidableEq, Repr, Inhabited

/-- A frame, open or latched: its target, the bits sampled in order, and whether anything happened that makes
its effect on the display unspecified: a line error inside it, an address setup inside it, a line Unknown when it
opened or when a bit may have been sampled (R42, R108). -/
structure Frame where
  target : Target
  bits : List Sample
  irregular : Bool
  deriving DecidableEq, Repr, Inhabited

/-- A reading of the events so far: the line levels, the open frame, the latched frames, oldest first, and how many
frames had been latched when a set of a `SHIFT` or `LATCH` last happened outside every frame, if one did (R108 items
1 and 2). -/
structure Reading where
  lines : Lines
  frame : Option Frame
  latched : List Frame
  loose : Option Nat
  deriving DecidableEq, Repr, Inhabited

/-- The reading of no events. -/
def Reading.start : Reading := ⟨⟨.unknown, .unknown, .unknown, .unknown⟩, none, [], none⟩

/-- The space a level of RS selects (R39). -/
def targetOf : Level → Target
  | .low => .dot
  | .high => .control
  | .unknown => .unknown

/-- The bit a level of DATA is sampled as (R40). -/
def sampleOf : Level → Sample
  | .low => .zero
  | .high => .one
  | .unknown => .unknown

/-- Some line is Unknown (R108 item 6). -/
def Lines.anyUnknown (ls : Lines) : Bool :=
  ls.data == .unknown || ls.clk == .unknown || ls.ce == .unknown || ls.rs == .unknown

/-- A frame opens, addressing what RS selects (R39). -/
def Reading.opening (r : Reading) (irregular : Bool) : Reading :=
  { r with frame := some ⟨targetOf r.lines.rs, [], irregular⟩ }

/-- The open frame is latched (R39, R42). -/
def Reading.latching (r : Reading) (f : Frame) : Reading :=
  { r with frame := none, latched := r.latched ++ [f] }

/-- The open frame samples the level of DATA (R40). -/
def Reading.sampling (r : Reading) (f : Frame) (irregular : Bool) : Reading :=
  { r with frame := some ⟨f.target, f.bits ++ [sampleOf r.lines.data], f.irregular || irregular⟩ }

/-- The open frame goes on, now irregular. -/
def Reading.marking (r : Reading) (f : Frame) : Reading :=
  { r with frame := some { f with irregular := true } }

/-- A set that no well-formed transaction makes happened outside every frame. -/
def Reading.stray (r : Reading) : Reading := { r with loose := some r.latched.length }

/-- What an event on CE may do to the frame (R39). -/
def Reading.ceReadings (r : Reading) (v : Drive) (a : Answer) : List Reading :=
  match a, v, r.frame with
  | .ok, .low, none =>
    match r.lines.ce with
    | .high => [r.opening r.lines.anyUnknown]
    | .unknown => [r, r.opening true]
    | .low => [r]
  | .ok, .low, some f => [r.marking f]
  | .ok, .high, none => [r.stray]
  | .ok, .high, some f => [r.latching f]
  | .err _, .low, none => [r, r.opening true]
  | .err _, .high, none => [r.stray, r.opening true]
  | .err _, _, some f => [r.marking f, r.latching { f with irregular := true }]

/-- What an event on CLK may do: a rising edge inside an open frame samples one bit (R40). -/
def Reading.clkReadings (r : Reading) (v : Drive) (a : Answer) : List Reading :=
  match r.frame with
  | none => [r]
  | some f =>
    match v, a, r.lines.clk with
    | .high, .ok, .low => [r.sampling f false]
    | .high, .ok, .high => [r]
    | .high, .ok, .unknown => [r.marking f, r.sampling f true]
    | .high, .err _, .high => [r.marking f]
    | .high, .err _, .low => [r.marking f, r.sampling f true]
    | .high, .err _, .unknown => [r.marking f, r.sampling f true]
    | .low, .ok, _ => [r]
    | .low, .err _, _ => [r.marking f]

/-- What an event on RS may do: inside an open frame, a different level leaves the target unspecified (R39). -/
def Reading.rsReadings (r : Reading) (v : Drive) (a : Answer) : List Reading :=
  match r.frame with
  | none => [r]
  | some f =>
    if a = .ok ∧ targetOf (driveLevel v) = f.target then [r]
    else [{ r with frame := some { f with target := .unspecified, irregular := true } }]

/-- What an event on DATA may do: a failed one inside an open frame makes the frame irregular (R42); one outside
every frame is part of a `SHIFT` there (R108). -/
def Reading.dataReadings (r : Reading) (a : Answer) : List Reading :=
  match r.frame, a with
  | some f, .err _ => [r.marking f]
  | some _, .ok => [r]
  | none, _ => [r.stray]

/-- The readings of one more event (R39 to R42); the lines then hold what the event leaves (R60). -/
def Reading.after (r : Reading) (e : Event) : List Reading :=
  List.map (fun t => { t with lines := r.lines.afterEvent e }) <|
    match e.line with
    | .ce => r.ceReadings e.level e.outcome
    | .clk => r.clkReadings e.level e.outcome
    | .rs => r.rsReadings e.level e.outcome
    | .data => r.dataReadings e.outcome
    | .blank => [r]
    | .oscSel => [r]
    | .reset => [r]

/-- All readings of a list of events that follows a reading. -/
def Reading.readAll (r : Reading) : List Event → List Reading
  | [] => [r]
  | e :: es => (r.after e).flatMap fun t => t.readAll es

/-- All readings of TRACE. -/
def State.readings (s : State) : List Reading := Reading.start.readAll s.trace

/-- The bit value of a sample, where known. -/
def Sample.bit : Sample → Option Bool
  | .zero => some false
  | .one => some true
  | .unknown => none

/-- The byte of eight known bits, the first one bit 7 (R41). -/
def byteOfBits (b7 b6 b5 b4 b3 b2 b1 b0 : Bool) : Byte :=
  BitVec.ofBool b7 ++ BitVec.ofBool b6 ++ BitVec.ofBool b5 ++ BitVec.ofBool b4
    ++ BitVec.ofBool b3 ++ BitVec.ofBool b2 ++ BitVec.ofBool b1 ++ BitVec.ofBool b0

/-- The byte of eight samples, where all are known (R41). -/
def byteOfSamples (s7 s6 s5 s4 s3 s2 s1 s0 : Sample) : Option Byte :=
  match s7.bit, s6.bit, s5.bit, s4.bit, s3.bit, s2.bit, s1.bit, s0.bit with
  | some b7, some b6, some b5, some b4, some b3, some b2, some b1, some b0 =>
    some (byteOfBits b7 b6 b5 b4 b3 b2 b1 b0)
  | _, _, _, _, _, _, _, _ => none

/-- The bytes of a list of samples, eight at a time; none where a bit is unknown or the bits are no whole number
of bytes (R41, R42). -/
def bytesOfSamples : List Sample → Option (List Byte)
  | [] => some []
  | s7 :: s6 :: s5 :: s4 :: s3 :: s2 :: s1 :: s0 :: rest =>
    match byteOfSamples s7 s6 s5 s4 s3 s2 s1 s0, bytesOfSamples rest with
    | some b, some bs => some (b :: bs)
    | _, _ => none
  | _ => none

/-- The bytes a latched frame delivers, where the spec says it delivers any (R42): none for an irregular frame,
an unknown target or bit, a partial byte. -/
def Frame.payload (f : Frame) : Option (List Byte) :=
  if f.irregular then none
  else
    match f.target with
    | .dot => bytesOfSamples f.bits
    | .control => bytesOfSamples f.bits
    | .unknown => none
    | .unspecified => none

/-- The samples of one shifted byte, most significant bit first (R29). -/
def samplesOfByte (b : Byte) : List Sample :=
  [7, 6, 5, 4, 3, 2, 1, 0].map fun i => if b.getLsbD i then .one else .zero

/-- The regular frame that carries these bytes to that space. -/
def frameOf (t : Target) (bytes : List Byte) : Frame := ⟨t, bytes.flatMap samplesOfByte, false⟩

/-- The transaction phase (40_transfer_engine.md R66): a function of the line levels, tracked nowhere. -/
inductive Phase where
  | idle | openDot | openControl | other
  deriving DecidableEq, Repr

/-- The phase the lines are in (R66). -/
def Lines.phase (ls : Lines) : Phase :=
  match ls.ce, ls.clk, ls.rs with
  | .high, .low, _ => .idle
  | .low, _, .low => .openDot
  | .low, _, .high => .openControl
  | _, _, _ => .other

end Sys2Proof.Machine
end

