-- ==== Sys2Proof/Machine/Display.lean ====
section
/-! DEFINITION. What the spec lets one say of the control words and the mode of the display chain
(42_control_word_push.md R85, 60_exceptions.md R89, R99, R100, 70_reset_and_hazards.md R108 to R112). The spec gives
a device effect to well-formed command streams only (40_transfer_engine.md R67), so this is a view that follows the
commands the block takes and their results, step by step. It is no state of the block (10_state.md R24), and no
command reads it; `none` is "any value" (log 13). -/

namespace Sys2Proof.Machine

/-- Where the host's stream of commands stands (R67): between transactions; in a dot transaction, with a byte
shifted already or not; in a control transaction of single commands; or with a frame possibly open that a line error
left. -/
inductive Stage where
  | between
  | dotFrame (filled : Bool)
  | ctrlFrame
  | stray
  deriving DecidableEq, Repr, Inhabited

/-- What is known of the chain. -/
structure Display where
  /-- Control Word 0 of every device. -/
  cw0 : Option Byte
  /-- Control Word 1 of every device. -/
  cw1 : Option Byte
  /-- The data-out mode the chain is in. -/
  mode : Option FanMode
  /-- R85's premise that DOM matches the mode the chain is in, as R110 has it: presumed or established, and none of
  the situations that break it has happened since. -/
  inStep : Bool
  /-- A `begin` has completed, and nothing since has left the display's state unknown (R99, R109, R112). -/
  ready : Bool
  /-- Where the stream of commands stands. -/
  stage : Stage
  /-- A `begin` is under way, and each of its commands so far has returned Ok. -/
  repairing : Bool
  deriving DecidableEq, Repr, Inhabited

/-- The view at power-up: the display's state is any value (R102, 93 U18). Whether the chain starts in the mode of
DOM is not in the source (91, 70_reset_and_hazards.md R110); a claim may presume it. -/
def Display.powerUp (presumed : Bool) : Display := ⟨none, none, none, presumed, false, .between, false⟩

/-- The stage after a command that was no part of a well-formed transaction, or failed: between transactions once
CE is High, since no frame is open then (R39). -/
def strayStage (t : State) : Stage := if t.lines.ce = .high then .between else .stray

/-- A command of a `begin` that returned Ok leaves the `begin` under way (R104). -/
def Display.goesOn (d : Display) (t : State) : Bool := d.repairing && t.result == some .ok

/-- After a line error, or a frame that continues an aborted one, the configuration of the display is unknown until
a complete `begin` (R89, R99, R109, D40, 93 I6); `t` is the state it happened in. That a `begin` then reaches every
device is broken only by what R110 lists, so `inStep` stays. -/
def Display.spoil (d : Display) (t : State) : Display :=
  ⟨none, none, none, d.inStep, false, strayStage t, d.goesOn t⟩

/-- After a failed `PUSH1`, and after a stream the spec gives no device effect at all, nothing is known, the chain's
mode included (R67, R108, R110, 93 U6 to U12, U15). -/
def Display.lose (t : State) : Display := ⟨none, none, none, false, false, strayStage t, false⟩

/-- The copies a push sends reach every device: `N` is a multiple of 4, and the count is right for the mode the
chain is in, or the same in both modes (R79, R85, R110, R111). -/
def Display.reaches (d : Display) (s : State) : Bool :=
  s.n % deviceChars == 0 && (d.inStep || s.n / deviceChars == 1)

/-- The display is known to be awake (R100). -/
def Display.knownAwake (d : Display) : Bool :=
  match d.cw0 with
  | some w => awake w
  | none => false

/-- Every device takes a pushed Control Word 0 (R27, R85). Pushing the word held already changes nothing (R34). A
display that goes to sleep, is asleep, or may be asleep keeps the other word and the mode or does not (R100, 93
U16): they are known after only if it was known to be awake and stays awake. That a display asleep keeps the pushed
Control Word 0 itself, its brightness and peak fields included, is the model's choice: R85 and R100 have it latch the
word, and R100 and 93 U16 leave open which control-word fields it keeps while asleep (log 13). -/
def Display.takeCw0 (d : Display) (w : Byte) : Display :=
  if d.cw0 = some w then d
  else if d.knownAwake && awake w then { d with cw0 := some w }
  else { d with cw0 := some w, cw1 := none, mode := none }

/-- Every device takes a pushed Control Word 1, and the chain is in the mode it says (R27, R85). That a display asleep
takes it too, and keeps it while asleep, is the model's choice: R85 makes no exception for sleep, and R100 and 93 U16
leave open what a display keeps there (log 13). -/
def Display.takeCw1 (d : Display) (w : Byte) : Display :=
  { d with cw1 := some w, mode := some (dataOut w), inStep := true }

/-- A push from that state opens its frame as R39 has it and with no line Unknown: CE is High, and DATA, which an
address setup does not set, is known (R108 item 6, 93 U12). A push is a well-formed frame by construction (R108), so
CLK may be what it is. -/
def opensRegular (s : State) : Bool := s.lines.ce == .high && s.lines.data != .unknown

/-- A transaction of single commands from that state is issued from the idle state (R66, R67), with DATA known. -/
def opensFromIdle (s : State) : Bool := s.lines.phase == .idle && opensRegular s

/-- An encoder command: without effect on the wire, but between an address setup and its `LATCH` the stream is no
well-formed one, and its effect on the device is unspecified (R67). In a frame that a line error left open it adds
nothing to what the error left unknown (93 I6; log 13). -/
def Display.afterSetter (d : Display) (t : State) : Display :=
  match d.stage with
  | .between => d
  | .stray => d.spoil t
  | .dotFrame _ => .lose t
  | .ctrlFrame => .lose t

/-- `ENTER_DOT` or `ENTER_CTRL`, from state `s` to `t`; `opened` is the stage of the transaction it begins. A frame
it opens from a state that is not idle, or while DATA is Unknown, has an unspecified effect (R67, R108 item 6), and so
has a frame left open by a line error that it falls into (R39, R42, R109, 93 U8, U12). In these cases and after its own
line error a later `begin`, or the one it belongs to, still repairs (R99 item 7, R109, 93 I6), and that `inStep` stays
in them, for an `ENTER_CTRL` and the raw control frame it begins too (93 U11), is the model's choice (log 13). Inside a
transaction it makes the stream no well-formed one (R108 item 3). -/
def Display.afterEnter (d : Display) (opened : Stage) (s t : State) : Display :=
  match d.stage with
  | .between =>
    if t.result = some .ok && opensFromIdle s then { d with stage := opened }
    else if t.result = some .ok && s.lines.ce == .high then { d.spoil t with stage := opened }
    else d.spoil t
  | .stray => d.spoil t
  | .dotFrame _ => .lose t
  | .ctrlFrame => .lose t

/-- `SHIFT b`. In a dot transaction the effect of a 1 in bit 7 on the device is any value (R53, 93 I5). Outside a
frame that of every `SHIFT` is, wherever it fails (R108 item 1, 93 U6). Where CE is Unknown after a line error, a
`SHIFT` may be inside a frame or outside: it is taken as part of what the error left unknown, and that `inStep` stays
there is the model's choice (log 13). -/
def Display.afterShift (d : Display) (b : Byte) (t : State) : Display :=
  match d.stage with
  | .between => .lose t
  | .stray => d.spoil t
  | .dotFrame _ =>
    if t.result = some .ok then (if b.getLsbD 7 then .lose t else { d with stage := .dotFrame true })
    else d.spoil t
  | .ctrlFrame => if t.result = some .ok then d else d.spoil t

/-- `LATCH`: the end of a dot transaction leaves the control words. The latch of an empty frame, one outside a frame,
and one of a control frame made of single commands have any effect (R108 items 2 and 5, 93 U7, U10, U11), whether
CLK then fails or not; that of an aborted frame has an unspecified one (R42, R109). A control frame of single commands
begun in a frame a line error left open, or with CE Unknown after one, is latched there as a part of that frame,
whatever bytes it carries and though all its commands return Ok; that `inStep` then stays, where R108 item 5 and 93 U11
leave the control words any value, is the model's choice (log 13). -/
def Display.afterLatch (d : Display) (t : State) : Display :=
  match d.stage with
  | .between => .lose t
  | .stray => d.spoil t
  | .dotFrame filled =>
    if t.lines.ce = .high && !filled then .lose t
    else if t.result = some .ok then { d with stage := .between }
    else d.spoil t
  | .ctrlFrame => if t.lines.ce = .high then .lose t else d.spoil t

/-- `PUSH0` (R85, R89, R109, R112). Before a `begin` has completed it makes nothing known. One whose frame opens while
DATA is Unknown (R108 item 6, 93 U12), or falls into a frame that a line error left open (R108 item 3, 93 U8), is taken
as part of what the error left unknown; that `inStep` stays there is the model's choice (log 13). -/
def Display.afterPush0 (d : Display) (s t : State) : Display :=
  match d.stage with
  | .between =>
    if t.result = some .ok && opensRegular s then
      if d.ready && s.life == .active then
        if d.reaches s then d.takeCw0 s.cw0 else d.spoil t
      else d
    else d.spoil t
  | .stray => d.spoil t
  | .dotFrame _ => .lose t
  | .ctrlFrame => .lose t

/-- `PUSH1` (R85, R110, R112). One that fails, or is not known to reach every device, leaves the chain's mode any
value (93 U15). Before a `begin` has completed one that returns Ok makes nothing known, but `inStep` stays for the new
DOM: that the chain then follows it is the model's choice, since R85 has an Ok push reach the chain whatever LIFE is,
and R112 and 93 I9 leave the display any value until `begin` completes (log 13). -/
def Display.afterPush1 (d : Display) (s t : State) : Display :=
  match d.stage with
  | .between =>
    if t.result = some .ok && opensRegular s && d.reaches s then
      if d.ready && s.life == .active then d.takeCw1 s.cw1 else d
    else .lose t
  | .stray => .lose t
  | .dotFrame _ => .lose t
  | .ctrlFrame => .lose t

/-- What a command that took the block from `s` to `t` makes of what is known. -/
def Display.afterCommand (d : Display) (i : Instr) (s t : State) : Display :=
  match i with
  | .enterDot => d.afterEnter (.dotFrame false) s t
  | .enterCtrl => d.afterEnter .ctrlFrame s t
  | .shift b => d.afterShift b t
  | .latch => d.afterLatch t
  | .setBrt _ => d.afterSetter t
  | .setCur _ => d.afterSetter t
  | .setWake _ => d.afterSetter t
  | .setFan _ => d.afterSetter t
  | .setPre _ => d.afterSetter t
  | .push0 => d.afterPush0 s t
  | .push1 => d.afterPush1 s t

/-- The command about to be taken from `s` is one of a `begin`: its first, or a later one of a `begin` each of whose
commands so far has returned Ok. -/
def Display.inBegin (d : Display) (s : State) : Bool :=
  match s.requests with
  | .pseudo .beginInit 0 :: _ => true
  | .pseudo .beginInit (_ + 1) :: _ => d.repairing
  | _ => false

/-- The command about to be taken from `s` is the last of a `begin` (R104). -/
def isLastOfBegin (s : State) : Bool :=
  match s.requests with
  | .pseudo .beginInit k :: _ => k + 1 == (expand s.n .beginInit).length
  | _ => false

/-- A complete `begin` repairs the display: every device holds both control words as they were pushed, and the chain
is in the mode DOM says (R85, R99 item 7, R104, R109, R112). `t` is the state after its last command. That both are
held by a chain whose pushed Control Word 0 says sleep is the model's choice (93 U16; log 13). -/
def Display.repaired (t : State) : Display :=
  ⟨some t.cw0, some t.cw1, some t.dom, true, true, .between, false⟩

/-- The view after the step from `s`. -/
def Display.watch (d : Display) (s : State) : Display :=
  match s.fetch with
  | .nothing => d
  | .illegal _ => d
  | .command i =>
    match exec i s with
    | .next t =>
      let after := { d with repairing := d.inBegin s }.afterCommand i s t
      if after.repairing && isLastOfBegin s then .repaired t else after
    | .fault _ => d
    | .refused _ => d

/-- The view after some number of steps from `s`. -/
def Display.watchSteps : Nat → Display → State → Display
  | 0, d, _ => d
  | k + 1, d, s =>
    match step s with
    | .next t => Display.watchSteps k (d.watch s) t
    | .fault _ => d
    | .refused _ => d

end Sys2Proof.Machine
end

