-- ==== Sys2Proof/Safety.lean ====
section
/-! DEFINITION. What counts as a safe state and a safe run, in the terms claims use: the invariants of the
block, well-formed command streams (40_transfer_engine.md R67), and running a list of commands. -/

namespace Sys2Proof.Machine

/-- What holds of every block: `N` at least 4, a bijective code table, the hard-wired tag bits and the reserved
bits of the control words (R5, R19, R76). -/
structure State.Inv (s : State) : Prop where
  width : 4 ≤ s.n
  codes : s.peakCode.wf = true
  tag0 : s.cw0.getLsbD 7 = false
  tag1 : s.cw1.getLsbD 7 = true
  reserved : s.cw1.extractLsb' 2 5 = 0

/-- The lines hold what TRACE says they do (R8, R23). -/
def State.LinesFollowTrace (s : State) : Prop := s.lines = linesAfter s.trace

/-- The next line sets, if they are these, are all answered ok. -/
def State.AllOk (s : State) (xs : List LineSet) : Prop :=
  ∀ (j : Nat) (h : j < xs.length), s.answerAt j xs[j] = .ok

/-- The next line sets, if they are these, are answered ok up to `pre`, and then `x` fails with `c`. -/
def State.FailsAt (s : State) (pre : List LineSet) (x : LineSet) (c : Cause) : Prop :=
  s.AllOk pre ∧ s.answerAt pre.length x = .err c

/-- The line sets a command asks for in that state (R62 to R65, R70, R80, R81). -/
def lineSetsOf (s : State) : Instr → List LineSet
  | .enterDot => enterDotSets
  | .enterCtrl => enterCtrlSets
  | .shift b => shiftSets b
  | .latch => latchSets
  | .setBrt _ => []
  | .setCur _ => []
  | .setWake _ => []
  | .setFan _ => []
  | .setPre _ => []
  | .push0 => pushSets s.repeatCount s.cw0
  | .push1 => pushSets s.repeatCount s.cw1

/-- Run commands one after another, whatever each returns; stop where one gives no next state. -/
def runCommands : List Instr → State → State
  | [], s => s
  | i :: is, s =>
    match exec i s with
    | .next t => runCommands is t
    | .fault _ => s
    | .refused _ => s

/-- Every command of the list returns Ok when they are run in order. -/
def AllReturnOk : List Instr → State → Prop
  | [], _ => True
  | i :: is, s => ∃ t, exec i s = .next t ∧ t.result = some .ok ∧ AllReturnOk is t

/-- The byte transmitted by the last `PUSH1` of the run that returned Ok, or `last` if there was none (R18). -/
def lastPushed1 : List Instr → State → Option Byte → Option Byte
  | [], _, last => last
  | i :: is, s, last =>
    match exec i s with
    | .next t => lastPushed1 is t (if i = .push1 ∧ t.result = some .ok then some s.cw1 else last)
    | .fault _ => last
    | .refused _ => last

/-- The order of the commands of a well-formed stream (R67): transactions (an address setup, shifts, a latch), and
encoder and push commands only between them. `inside` says whether a transaction is under way at the start. That each
transaction is issued from idle is `transactionsFromIdle`. -/
def wellFormedFrom : Bool → List Instr → Bool
  | inside, [] => !inside
  | true, .shift _ :: is => wellFormedFrom true is
  | true, .latch :: is => wellFormedFrom false is
  | true, _ :: _ => false
  | false, .enterDot :: is => wellFormedFrom true is
  | false, .enterCtrl :: is => wellFormedFrom true is
  | false, .shift _ :: _ => false
  | false, .latch :: _ => false
  | false, _ :: is => wellFormedFrom false is

/-- A list of commands in the order of a well-formed stream, from between transactions (R67). -/
def wellFormedStream (is : List Instr) : Bool := wellFormedFrom false is

/-- Every transaction of the run, up to where it stops, is issued from the idle state (R66, R67). -/
def transactionsFromIdle : List Instr → State → Bool
  | [], _ => true
  | i :: is, s =>
    ((i != .enterDot && i != .enterCtrl) || s.lines.phase == .idle) &&
      match exec i s with
      | .next t => transactionsFromIdle is t
      | .fault _ => true
      | .refused _ => true

/-- R67 whole: a well-formed command stream, issued from that state with each of its transactions from idle. -/
def State.issuesWellFormed (s : State) (is : List Instr) : Bool :=
  wellFormedStream is && transactionsFromIdle is s

/-- The frames a well-formed stream latches when every line set is ok: one for each transaction, carrying its
bytes in order, and one for each push, carrying the repeat count of copies (R30, R41, R80). `cur` is the
transaction under way. -/
def framesOf : List Instr → State → Option (Target × List Byte) → List Frame
  | [], _, _ => []
  | i :: is, s, cur =>
    match exec i s with
    | .next t =>
      match i, cur with
      | .enterDot, _ => framesOf is t (some (.dot, []))
      | .enterCtrl, _ => framesOf is t (some (.control, []))
      | .shift b, some (g, bs) => framesOf is t (some (g, bs ++ [b]))
      | .latch, some (g, bs) => frameOf g bs :: framesOf is t none
      | .push0, _ => frameOf .control (List.replicate s.repeatCount s.cw0) :: framesOf is t none
      | .push1, _ => frameOf .control (List.replicate s.repeatCount s.cw1) :: framesOf is t none
      | _, _ => framesOf is t cur
    | .fault _ => []
    | .refused _ => []

/-- The register fields the encoder commands write (R15, R16, R70). -/
inductive Field where
  | brt | peak | wake | dout | pre
  deriving DecidableEq, Repr

/-- The field an encoder command writes; the other commands write none (R70). -/
def fieldWritten : Instr → Option Field
  | .setBrt _ => some .brt
  | .setCur _ => some .peak
  | .setWake _ => some .wake
  | .setFan _ => some .dout
  | .setPre _ => some .pre
  | .enterDot => none
  | .enterCtrl => none
  | .shift _ => none
  | .latch => none
  | .push0 => none
  | .push1 => none

/-- The bits a field holds, as a number (R15, R16). -/
def fieldBits (s : State) : Field → Nat
  | .brt => (s.cw0.extractLsb' 0 4).toNat
  | .peak => (s.cw0.extractLsb' 4 2).toNat
  | .wake => (s.cw0.extractLsb' 6 1).toNat
  | .dout => (s.cw1.extractLsb' 0 1).toNat
  | .pre => (s.cw1.extractLsb' 1 1).toNat

/-- Some number of steps, none of which stops. -/
def runSteps : Nat → State → State
  | 0, s => s
  | k + 1, s =>
    match step s with
    | .next t => runSteps k t
    | .fault _ => s
    | .refused _ => s

end Sys2Proof.Machine
end

