-- ==== Sys2Proof/Certificates/Slice0/Obligations.lean ====
section
/-! DEFINITION. The statements for the provers: what the spec's rules say the commands, the host port, the
construction and the wire do. -/

open Sys2Proof Sys2Proof.Machine

/-! ## Encoding -/

/-- Decoding an encoded command gives it back, whatever its operand (30_encoding.md section 1). -/
def Obligations.CommandWordRoundTrip : Prop :=
  ∀ i : Instr, decode (encode i) = .ok i

/-- A word that selects a command is that command's word: no bit of it is dropped (30_encoding.md section 1). -/
def Obligations.LegalWordIsItsCommandsWord : Prop :=
  ∀ (w : Word) (i : Instr), decode w = .ok i → encode i = w

/-- Exactly the row of its command matches a legal word; no row matches an illegal one (R46). -/
def Obligations.OpcodeTableSelectsExactlyLegalWords : Prop :=
  ∀ w : Word,
    (opcodeTable.filter fun r => w &&& r.mask == r.value).map OpcodeRow.mnemonic =
      match decode w with
      | .ok i => [mnemonicOf i]
      | .error _ => []

/-- Words written out from the opcode map decode to the commands they stand for (R44, 95_test_vectors.md 2.2). -/
def Obligations.WrittenOutWordsDecode : Prop :=
  decode 0b0000000100000000 = .ok .enterDot ∧
  decode 0b0000001000000000 = .ok .enterCtrl ∧
  decode 0b0000001111111111 = .ok (.shift 255) ∧
  decode 0b0001000100000011 = .ok (.setCur .ma128) ∧
  decode 0b0001001100000001 = .ok (.setFan .simultaneous) ∧
  decode 0b0010000100000000 = .ok .push1 ∧
  decode 0b0001000100000100 = .error (.reservedOperandBit 0x11 0x04) ∧
  decode 0b0000000000000000 = .error (.unassignedOpcode 0x00)

/-- The assembler takes exactly the well-formed lines, and gives each the operand its writing stands for: a byte for
its number, a level for its name or its index, a bit for its name (R54). -/
def Obligations.AssemblerTakesExactlyWellFormedLines : Prop :=
  (∀ a : AsmLine, a.wf = true ↔ ∃ i, assemble a = some i ∧ mnemonicOf i = a.mnemonic) ∧
  (∀ (b : Byte),
    assemble ⟨.shift, some (.number b.toNat)⟩ = some (.shift b) ∧
    assemble ⟨.setBrt, some (.number b.toNat)⟩ = some (.setBrt b)) ∧
  (∀ (o : AsmOperand) (k : Byte),
    (o, k) ∈ [(.number 0, 0), (.number 1, 1), (.number 2, 2), (.number 3, 3),
      (.name .ma40, 0), (.name .ma64, 1), (.name .ma93, 2), (.name .ma128, 3)] →
      (assemble ⟨.setCur, some o⟩).map encode = some (0x11#8 ++ k)) ∧
  (assemble ⟨.setWake, some (.name .wake)⟩).map encode = some 0x1201 ∧
  (assemble ⟨.setWake, some (.name .sleep)⟩).map encode = some 0x1200 ∧
  (assemble ⟨.setFan, some (.name .serial)⟩).map encode = some 0x1300 ∧
  (assemble ⟨.setFan, some (.name .simultaneous)⟩).map encode = some 0x1301 ∧
  (assemble ⟨.setPre, some (.name .direct)⟩).map encode = some 0x1400 ∧
  (assemble ⟨.setPre, some (.name .div8)⟩).map encode = some 0x1401 ∧
  (assemble ⟨.enterDot, none⟩).map encode = some 0x0100 ∧
  (assemble ⟨.enterCtrl, none⟩).map encode = some 0x0200 ∧
  (assemble ⟨.latch, none⟩).map encode = some 0x0400 ∧
  (assemble ⟨.push0, none⟩).map encode = some 0x2000 ∧
  (assemble ⟨.push1, none⟩).map encode = some 0x2100

/-! ## The step and the host port -/

/-- When the host issues a word that decodes to `i`, the step is `i` at that state, and the request is done. -/
def Obligations.StepRunsIssuedCommand : Prop :=
  ∀ (s : State) (w : Word) (qs : List Request) (i : Instr),
    s.requests = .word w :: qs → decode w = .ok i →
      ∃ t, exec i s = .next t ∧ step s = .next { t with requests := qs }

/-- The commands of a pseudo-operation run in order, one a step; the first that returns an error ends it, with
that error and the state the command left, and no later one is issued (R56); after the last one `begin` makes the block
Active (R104, R105). That a step takes one command, and that the request counts those done, is the model's (log 9). -/
def Obligations.PseudoOperationRunsInOrderToFirstError : Prop :=
  ∀ (s : State) (op : PseudoOp) (k : Nat) (qs : List Request) (i : Instr),
    s.requests = .pseudo op k :: qs → (expand s.n op)[k]? = some i →
      ∃ t, exec i s = .next t ∧
        step s = .next
          (if t.result ≠ some .ok then { t with requests := qs }
           else if k + 1 < (expand s.n op).length then { t with requests := .pseudo op (k + 1) :: qs }
           else { t with requests := qs, life := if op = .beginInit then .active else t.life })

/-- A word that matches no row returns `IllegalCommand(word)`: no line set, no event, no state change (R90). -/
def Obligations.IllegalWordChangesNothing : Prop :=
  ∀ (s : State) (w : Word) (qs : List Request),
    s.requests = .word w :: qs →
    (∀ r ∈ opcodeTable, w &&& r.mask ≠ r.value) →
      step s = .next { s with requests := qs, result := some (.illegalCommand w) }

/-- With nothing issued the block waits (20_memory.md section 4). -/
def Obligations.WaitsWhileNothingIsIssued : Prop :=
  ∀ s : State, s.requests = [] → step s = .next s

/-- The block takes the next command in every state: no step stops (R88, R95, R96). -/
def Obligations.EveryStepGoesOn : Prop :=
  ∀ s : State, ∃ t, step s = .next t

/-- A command word returns Ok, a line error on a protocol line, or IllegalCommand; never one of the
other kinds. A step that takes no command returns nothing new (R92). -/
def Obligations.OnlyTheBlocksErrorsAreReturned : Prop :=
  ∀ s t : State, step s = .next t →
    (s.fetch = .nothing ∧ t.result = s.result) ∨ t.result = some .ok ∨
    (∃ c, t.result = some (.lineError .data c)) ∨ (∃ c, t.result = some (.lineError .clk c)) ∨
    (∃ c, t.result = some (.lineError .ce c)) ∨ (∃ c, t.result = some (.lineError .rs c)) ∨
    ∃ w, t.result = some (.illegalCommand w)

/-- Every step keeps the causes in TRACE values of their line's own error type, and a `LineError` a command returns
carries such a cause: it is the environment's, unexamined (R5, R60, R86). -/
def Obligations.CausesAreOfTheirLinesType : Prop :=
  ∀ s t : State, step s = .next t →
    ((∀ e ∈ s.trace, ∀ c, e.outcome = .err c → isCauseOf (causeTypeOf s.causes e.line) c = true) →
      ∀ e ∈ t.trace, ∀ c, e.outcome = .err c → isCauseOf (causeTypeOf t.causes e.line) c = true) ∧
    ∀ i l c, s.fetch = .command i → t.result = some (.lineError l c) →
      isCauseOf (causeTypeOf t.causes l) c = true

/-! ## Transfer engine commands -/

/-- `ENTER_DOT`: CLK High, RS Low, CE Low; a failure at each of the three sets ends it there (R62). -/
def Obligations.EnterDotDrivesItsLines : Prop :=
  ∀ s : State,
    (s.AllOk [⟨.clk, .high⟩, ⟨.rs, .low⟩, ⟨.ce, .low⟩] →
      exec .enterDot s = .next { s with
        lines := ⟨s.lines.data, .high, .low, .low⟩
        trace := s.trace ++ [⟨.clk, .high, .ok⟩, ⟨.rs, .low, .ok⟩, ⟨.ce, .low, .ok⟩]
        answers := s.answers.drop 3
        result := some .ok }) ∧
    (∀ c, s.FailsAt [] ⟨.clk, .high⟩ c →
      exec .enterDot s = .next { s with
        lines := { s.lines with clk := .unknown }
        trace := s.trace ++ [⟨.clk, .high, .err c⟩]
        answers := s.answers.drop 1
        result := some (.lineError .clk c) }) ∧
    (∀ c, s.FailsAt [⟨.clk, .high⟩] ⟨.rs, .low⟩ c →
      exec .enterDot s = .next { s with
        lines := { s.lines with clk := .high, rs := .unknown }
        trace := s.trace ++ [⟨.clk, .high, .ok⟩, ⟨.rs, .low, .err c⟩]
        answers := s.answers.drop 2
        result := some (.lineError .rs c) }) ∧
    (∀ c, s.FailsAt [⟨.clk, .high⟩, ⟨.rs, .low⟩] ⟨.ce, .low⟩ c →
      exec .enterDot s = .next { s with
        lines := ⟨s.lines.data, .high, .unknown, .low⟩
        trace := s.trace ++ [⟨.clk, .high, .ok⟩, ⟨.rs, .low, .ok⟩, ⟨.ce, .low, .err c⟩]
        answers := s.answers.drop 3
        result := some (.lineError .ce c) })

/-- `ENTER_CTRL`: CLK High, RS High, CE Low; a failure at each of the three sets ends it there (R63). -/
def Obligations.EnterCtrlDrivesItsLines : Prop :=
  ∀ s : State,
    (s.AllOk [⟨.clk, .high⟩, ⟨.rs, .high⟩, ⟨.ce, .low⟩] →
      exec .enterCtrl s = .next { s with
        lines := ⟨s.lines.data, .high, .low, .high⟩
        trace := s.trace ++ [⟨.clk, .high, .ok⟩, ⟨.rs, .high, .ok⟩, ⟨.ce, .low, .ok⟩]
        answers := s.answers.drop 3
        result := some .ok }) ∧
    (∀ c, s.FailsAt [] ⟨.clk, .high⟩ c →
      exec .enterCtrl s = .next { s with
        lines := { s.lines with clk := .unknown }
        trace := s.trace ++ [⟨.clk, .high, .err c⟩]
        answers := s.answers.drop 1
        result := some (.lineError .clk c) }) ∧
    (∀ c, s.FailsAt [⟨.clk, .high⟩] ⟨.rs, .high⟩ c →
      exec .enterCtrl s = .next { s with
        lines := { s.lines with clk := .high, rs := .unknown }
        trace := s.trace ++ [⟨.clk, .high, .ok⟩, ⟨.rs, .high, .err c⟩]
        answers := s.answers.drop 2
        result := some (.lineError .rs c) }) ∧
    (∀ c, s.FailsAt [⟨.clk, .high⟩, ⟨.rs, .high⟩] ⟨.ce, .low⟩ c →
      exec .enterCtrl s = .next { s with
        lines := ⟨s.lines.data, .high, .unknown, .high⟩
        trace := s.trace ++ [⟨.clk, .high, .ok⟩, ⟨.rs, .high, .ok⟩, ⟨.ce, .low, .err c⟩]
        answers := s.answers.drop 3
        result := some (.lineError .ce c) })

/-- `SHIFT b`: 24 line sets; bit `7 - j` is sent by the sets at `3j`, `3j + 1` and `3j + 2` (counting from 0):
CLK Low, DATA at the bit, CLK High. CLK is left High and DATA at bit 0 (R64, R50, R29). -/
def Obligations.ShiftSendsTheByteFromItsTopBit : Prop :=
  ∀ (b : Byte) (s : State),
    s.AllOk ([7, 6, 5, 4, 3, 2, 1, 0].flatMap fun i =>
      [⟨.clk, .low⟩, ⟨.data, if b.getLsbD i then .high else .low⟩, ⟨.clk, .high⟩]) →
    ∃ es : List Event,
      exec (.shift b) s = .next { s with
        lines := { s.lines with clk := .high, data := if b.getLsbD 0 then .high else .low }
        trace := s.trace ++ es
        answers := s.answers.drop 24
        result := some .ok } ∧
      es.length = 24 ∧
      ∀ j < 8,
        es[3 * j]? = some ⟨.clk, .low, .ok⟩ ∧
        es[3 * j + 1]? = some ⟨.data, if b.getLsbD (7 - j) then .high else .low, .ok⟩ ∧
        es[3 * j + 2]? = some ⟨.clk, .high, .ok⟩

/-- `LATCH`: CE High, then CLK Low; a failure at either set ends it there (R65). -/
def Obligations.LatchRaisesChipEnableThenIdlesClock : Prop :=
  ∀ s : State,
    (s.AllOk [⟨.ce, .high⟩, ⟨.clk, .low⟩] →
      exec .latch s = .next { s with
        lines := { s.lines with ce := .high, clk := .low }
        trace := s.trace ++ [⟨.ce, .high, .ok⟩, ⟨.clk, .low, .ok⟩]
        answers := s.answers.drop 2
        result := some .ok }) ∧
    (∀ c, s.FailsAt [] ⟨.ce, .high⟩ c →
      exec .latch s = .next { s with
        lines := { s.lines with ce := .unknown }
        trace := s.trace ++ [⟨.ce, .high, .err c⟩]
        answers := s.answers.drop 1
        result := some (.lineError .ce c) }) ∧
    (∀ c, s.FailsAt [⟨.ce, .high⟩] ⟨.clk, .low⟩ c →
      exec .latch s = .next { s with
        lines := { s.lines with ce := .high, clk := .unknown }
        trace := s.trace ++ [⟨.ce, .high, .ok⟩, ⟨.clk, .low, .err c⟩]
        answers := s.answers.drop 2
        result := some (.lineError .clk c) })

/-- The line levels after each engine command that returns Ok, and its number of events (R68). -/
def Obligations.LineLevelsAfterOkEngineCommands : Prop :=
  ∀ s t : State, t.result = some .ok →
    (exec .enterDot s = .next t →
      t.lines = ⟨s.lines.data, .high, .low, .low⟩ ∧ t.trace.length = s.trace.length + 3) ∧
    (exec .enterCtrl s = .next t →
      t.lines = ⟨s.lines.data, .high, .low, .high⟩ ∧ t.trace.length = s.trace.length + 3) ∧
    (∀ b, exec (.shift b) s = .next t →
      t.lines = ⟨if b.getLsbD 0 then .high else .low, .high, s.lines.ce, s.lines.rs⟩ ∧
      t.trace.length = s.trace.length + 24) ∧
    (exec .latch s = .next t →
      t.lines = ⟨s.lines.data, .low, .high, s.lines.rs⟩ ∧ t.trace.length = s.trace.length + 2)

/-- Frame of the engine commands, whether they return Ok or an error: no register, parameter or request changes;
address setups leave DATA, shifts leave CE and RS, latches leave DATA and RS; TRACE keeps what it held, and the
new events are on the command's lines (R61). -/
def Obligations.EngineCommandsLeaveRegistersAndOtherLines : Prop :=
  ∀ (i : Instr) (s t : State), exec i s = .next t →
    (i = .enterDot ∨ i = .enterCtrl ∨ (∃ b, i = .shift b) ∨ i = .latch) →
      t.cw0 = s.cw0 ∧ t.cw1 = s.cw1 ∧ t.dom = s.dom ∧ t.n = s.n ∧ t.life = s.life ∧
      t.peakCode = s.peakCode ∧ t.prescalerDiv8 = s.prescalerDiv8 ∧ t.causes = s.causes ∧
      t.requests = s.requests ∧
      ((i = .enterDot ∨ i = .enterCtrl) → t.lines.data = s.lines.data) ∧
      ((∃ b, i = .shift b) → t.lines.ce = s.lines.ce ∧ t.lines.rs = s.lines.rs) ∧
      (i = .latch → t.lines.data = s.lines.data ∧ t.lines.rs = s.lines.rs) ∧
      ∃ es, t.trace = s.trace ++ es ∧ t.answers = s.answers.drop es.length ∧ ∀ e ∈ es,
        ((i = .enterDot ∨ i = .enterCtrl) ∧ (e.line = .clk ∨ e.line = .rs ∨ e.line = .ce)) ∨
        ((∃ b, i = .shift b) ∧ (e.line = .clk ∨ e.line = .data)) ∨
        (i = .latch ∧ (e.line = .ce ∨ e.line = .clk))

/-! ## Errors -/

/-- The state after a `LineError` of any command: the sets before the failing one have happened, its line is
Unknown, its event ends TRACE, no later set is attempted, and nothing else has changed (60_exceptions.md
section 2). -/
def Obligations.LineErrorEndsCommandAtTheFailingSet : Prop :=
  ∀ (i : Instr) (s : State) (pre post : List LineSet) (x : LineSet) (c : Cause),
    lineSetsOf s i = pre ++ x :: post → s.FailsAt pre x c →
      exec i s = .next { s with
        lines := ((pre.map fun y => (⟨y.line, y.level, .ok⟩ : Event)).foldl Lines.afterEvent s.lines).put
          x.line .unknown
        trace := s.trace ++ (pre.map fun y => ⟨y.line, y.level, .ok⟩) ++ [⟨x.line, x.level, .err c⟩]
        answers := s.answers.drop (pre.length + 1)
        result := some (.lineError x.line c) }

/-- Every command returns Ok after all its line sets, each answered ok, or the error of the first that was not,
as the last event of TRACE: no event follows a failed set, and no command reports two errors (R23, R93). -/
def Obligations.CommandReturnsOkOrItsFirstError : Prop :=
  ∀ (i : Instr) (s : State), ∃ t es, exec i s = .next t ∧ t.trace = s.trace ++ es ∧
    ((t.result = some .ok ∧ es = (lineSetsOf s i).map fun y => ⟨y.line, y.level, .ok⟩) ∨
      ∃ pre post x c, lineSetsOf s i = pre ++ x :: post ∧ t.result = some (.lineError x.line c) ∧
        es = (pre.map fun y => ⟨y.line, y.level, .ok⟩) ++ [⟨x.line, x.level, .err c⟩])

/-- No command depends on a line's current level (R8): from two states that differ only in the line levels, a
command gives states that differ at most there. -/
def Obligations.CommandsDoNotReadLineLevels : Prop :=
  ∀ (i : Instr) (s t : State) (ls : Lines), exec i s = .next t →
    ∃ ls', exec i { s with lines := ls } = .next { t with lines := ls' }

/-- No command reads LIFE, and none is refused because of it (R20, R96). -/
def Obligations.CommandsDoNotReadLife : Prop :=
  ∀ (i : Instr) (s t : State) (l : Life), exec i s = .next t →
    exec i { s with life := l } = .next { t with life := l }

/-! ## Control-word encoder commands -/

/-- `SETBRT b`: every operand is legal; `CW0[3:0] <- b[3:0]`, high bits of `b` lost, nothing else changed (R71). -/
def Obligations.SetBrtWritesTheLowFourBits : Prop :=
  ∀ (b : Byte) (s : State),
    decode (0x10#8 ++ b) = .ok (.setBrt b) ∧
    ∃ v : Byte, exec (.setBrt b) s = .next { s with cw0 := v, result := some .ok } ∧
      ∀ k < 8, v.getLsbD k = if k < 4 then b.getLsbD k else s.cw0.getLsbD k

/-- `SETCUR l`: operand bits 7:2 are reserved; `CW0[5:4] <- PEAK_CODE(level)`, nothing else changed (R72). -/
def Obligations.SetCurWritesThePeakCode : Prop :=
  (∀ b : Byte, (∃ i, decode (0x11#8 ++ b) = .ok i) ↔ b.toNat < 4) ∧
  decode 0x1100 = .ok (.setCur .ma40) ∧ decode 0x1101 = .ok (.setCur .ma64) ∧
  decode 0x1102 = .ok (.setCur .ma93) ∧ decode 0x1103 = .ok (.setCur .ma128) ∧
  ∀ (l : PeakLevel) (s : State), ∃ v : Byte,
    exec (.setCur l) s = .next { s with cw0 := v, result := some .ok } ∧
    ∀ k < 8, v.getLsbD k =
      if k = 4 ∨ k = 5 then
        (match l with
          | .ma40 => s.peakCode.ma40
          | .ma64 => s.peakCode.ma64
          | .ma93 => s.peakCode.ma93
          | .ma128 => s.peakCode.ma128).getLsbD (k - 4)
      else s.cw0.getLsbD k

/-- `SETWAKE v`: operand bits 7:1 are reserved; `CW0[6] <- v`, set and not inverted, nothing else changed (R73). -/
def Obligations.SetWakeWritesBitSix : Prop :=
  (∀ b : Byte, (∃ i, decode (0x12#8 ++ b) = .ok i) ↔ b.toNat < 2) ∧
  decode 0x1200 = .ok (.setWake .sleep) ∧ decode 0x1201 = .ok (.setWake .wake) ∧
  ∀ (v : WakeMode) (s : State), ∃ w : Byte,
    exec (.setWake v) s = .next { s with cw0 := w, result := some .ok } ∧
    ∀ k < 8, w.getLsbD k = if k = 6 then decide (v = .wake) else s.cw0.getLsbD k

/-- `SETFAN v`: operand bits 7:1 are reserved; `CW1[0] <- v`; DOM and everything else unchanged (R74). -/
def Obligations.SetFanWritesBitZeroAndNotTheMirror : Prop :=
  (∀ b : Byte, (∃ i, decode (0x13#8 ++ b) = .ok i) ↔ b.toNat < 2) ∧
  decode 0x1300 = .ok (.setFan .serial) ∧ decode 0x1301 = .ok (.setFan .simultaneous) ∧
  ∀ (v : FanMode) (s : State), ∃ w : Byte,
    exec (.setFan v) s = .next { s with cw1 := w, result := some .ok } ∧
    ∀ k < 8, w.getLsbD k = if k = 0 then decide (v = .simultaneous) else s.cw1.getLsbD k

/-- `SETPRE v`: operand bits 7:1 are reserved; `CW1[1]` becomes `PRESCALER_DIV8` for divide-by-8 and its
complement for direct; nothing else changed (R75). -/
def Obligations.SetPreWritesThePrescalerBit : Prop :=
  (∀ b : Byte, (∃ i, decode (0x14#8 ++ b) = .ok i) ↔ b.toNat < 2) ∧
  decode 0x1400 = .ok (.setPre .direct) ∧ decode 0x1401 = .ok (.setPre .div8) ∧
  ∀ (v : PrescalerMode) (s : State), ∃ w : Byte,
    exec (.setPre v) s = .next { s with cw1 := w, result := some .ok } ∧
    ∀ k < 8, w.getLsbD k =
      if k = 1 then (if v = .div8 then s.prescalerDiv8.getLsbD 0 else !s.prescalerDiv8.getLsbD 0)
      else s.cw1.getLsbD k

/-- Every encoder command writes one field of one register by field insertion, always returns Ok, and does nothing
else: no line set, no event. The value it inserts depends on its operand and the two parameters only, so it reads
no `DOM`, `N`, `LIFE` or line (R70). -/
def Obligations.EncoderCommandsWriteOneFieldOnly : Prop :=
  ∀ (i : Instr) (f : Field), fieldWritten i = some f →
    ∃ v : PeakCode → BitVec 1 → Byte, ∀ s : State,
      let x := v s.peakCode s.prescalerDiv8
      (match f with
        | .brt => exec i s = .next
            { s with cw0 := (s.cw0 &&& ~~~0x0F#8) ||| (x &&& 0x0F#8), result := some .ok }
        | .peak => exec i s = .next
            { s with cw0 := (s.cw0 &&& ~~~0x30#8) ||| ((x <<< 4) &&& 0x30#8), result := some .ok }
        | .wake => exec i s = .next
            { s with cw0 := (s.cw0 &&& ~~~0x40#8) ||| ((x <<< 6) &&& 0x40#8), result := some .ok }
        | .dout => exec i s = .next
            { s with cw1 := (s.cw1 &&& ~~~0x01#8) ||| (x &&& 0x01#8), result := some .ok }
        | .pre => exec i s = .next
            { s with cw1 := (s.cw1 &&& ~~~0x02#8) ||| ((x <<< 1) &&& 0x02#8), result := some .ok })

/-- Masking law (R77): after `SETBRT b`, and after `set_brightness b` whatever its push returns, the brightness
field holds `b & 0x0F` and `CW0[7:4]` is unchanged. -/
def Obligations.BrightnessMaskingLaw : Prop :=
  ∀ (b : Byte) (s : State),
    (∀ t, exec (.setBrt b) s = .next t →
      t.cw0 &&& 0x0F = b &&& 0x0F ∧ t.cw0.extractLsb' 4 4 = s.cw0.extractLsb' 4 4) ∧
    ∀ qs, s.requests = .pseudo (.setBrightness b) 0 :: qs →
      ∃ t u, step s = .next t ∧ step t = .next u ∧ u.requests = qs ∧
        u.cw0 &&& 0x0F = b &&& 0x0F ∧ u.cw0.extractLsb' 4 4 = s.cw0.extractLsb' 4 4

/-- Field independence (R78): a setter changes only its own field, setters of different fields commute, and the
read-back of a field gives what was written; for the peak current this needs the code table to be a bijection. -/
def Obligations.EncoderFieldsAreIndependent : Prop :=
  (∀ (i : Instr) (f g : Field) (s t : State), fieldWritten i = some f → exec i s = .next t → g ≠ f →
    fieldBits t g = fieldBits s g) ∧
  (∀ (i j : Instr) (f g : Field) (s : State), fieldWritten i = some f → fieldWritten j = some g → f ≠ g →
    runCommands [i, j] s = runCommands [j, i] s) ∧
  ∀ s t : State,
    (∀ b, exec (.setBrt b) s = .next t → brightness t.cw0 = b.extractLsb' 0 4) ∧
    (∀ l, s.peakCode.wf = true → exec (.setCur l) s = .next t → peakLevel t.peakCode t.cw0 = l) ∧
    (∀ v, exec (.setWake v) s = .next t → (awake t.cw0 = true ↔ v = .wake)) ∧
    (∀ v, exec (.setFan v) s = .next t → dataOut t.cw1 = v) ∧
    (∀ v, exec (.setPre v) s = .next t → prescaler t.prescalerDiv8 t.cw1 = v)

/-! ## Pushes -/

/-- `PUSH0` when every line set is ok: an address setup for the control space, `R` copies of CW0, a latch, with
`R` from DOM (R79, R80). -/
def Obligations.Push0SendsRepeatedCopiesOfCw0 : Prop :=
  ∀ (s : State) (r : Nat), 4 ≤ s.n → r = (if s.dom = .serial then s.n / 4 else 1) →
    let sets : List LineSet :=
      [⟨.clk, .high⟩, ⟨.rs, .high⟩, ⟨.ce, .low⟩]
        ++ (List.replicate r ([7, 6, 5, 4, 3, 2, 1, 0].flatMap fun k =>
            [⟨.clk, .low⟩, ⟨.data, if s.cw0.getLsbD k then .high else .low⟩, ⟨.clk, .high⟩])).flatten
        ++ [⟨.ce, .high⟩, ⟨.clk, .low⟩]
    s.AllOk sets →
      exec .push0 s = .next { s with
        lines := ⟨if s.cw0.getLsbD 0 then .high else .low, .low, .high, .high⟩
        trace := s.trace ++ sets.map fun x => ⟨x.line, x.level, .ok⟩
        answers := s.answers.drop (5 + 24 * r)
        result := some .ok }

/-- `PUSH1` when every line set is ok: the same with CW1, and then DOM holds its data-out bit; the count is the
one of the old mode (R79, R81). -/
def Obligations.Push1SendsCw1AndThenMirrorsIt : Prop :=
  ∀ (s : State) (r : Nat), 4 ≤ s.n → r = (if s.dom = .serial then s.n / 4 else 1) →
    let sets : List LineSet :=
      [⟨.clk, .high⟩, ⟨.rs, .high⟩, ⟨.ce, .low⟩]
        ++ (List.replicate r ([7, 6, 5, 4, 3, 2, 1, 0].flatMap fun k =>
            [⟨.clk, .low⟩, ⟨.data, if s.cw1.getLsbD k then .high else .low⟩, ⟨.clk, .high⟩])).flatten
        ++ [⟨.ce, .high⟩, ⟨.clk, .low⟩]
    s.AllOk sets →
      exec .push1 s = .next { s with
        lines := ⟨if s.cw1.getLsbD 0 then .high else .low, .low, .high, .high⟩
        trace := s.trace ++ sets.map fun x => ⟨x.line, x.level, .ok⟩
        answers := s.answers.drop (5 + 24 * r)
        dom := if s.cw1.getLsbD 0 then .simultaneous else .serial
        result := some .ok }

/-- The repeat count is `N div 4` in serial mode and 1 in simultaneous mode, at least 1, and does not depend on
CW1 (R79). -/
def Obligations.RepeatCountComesFromTheMirror : Prop :=
  ∀ s : State, 4 ≤ s.n →
    s.repeatCount = (if s.dom = .serial then s.n / 4 else 1) ∧ 1 ≤ s.repeatCount ∧
    ∀ w : Byte, ({ s with cw1 := w } : State).repeatCount = s.repeatCount

/-- DOM is written by a `PUSH1` that returned Ok, with the data-out bit of the byte it transmitted, and by no
other command and no failed push (R82). -/
def Obligations.MirrorIsWrittenOnlyByCompletedPush1 : Prop :=
  ∀ (i : Instr) (s t : State), exec i s = .next t →
    t.dom = if i = .push1 ∧ t.result = some .ok then
        (if s.cw1.getLsbD 0 then .simultaneous else .serial)
      else s.dom

/-- A push that returns Ok performs `5 + 24R` line sets; always 29 in simultaneous mode (R83). -/
def Obligations.OkPushPerformsFivePlusTwentyFourPerCopy : Prop :=
  ∀ (i : Instr) (s t : State), (i = .push0 ∨ i = .push1) → exec i s = .next t → t.result = some .ok →
    t.trace.length = s.trace.length + (5 + 24 * (if s.dom = .serial then s.n / 4 else 1)) ∧
    (s.dom = .simultaneous → t.trace.length = s.trace.length + 29)

/-- Frame of the pushes, Ok or not: the control words, N, LIFE, the parameters and the requests are unchanged;
an error also leaves DOM; TRACE keeps what it held (R80, R81, R84). -/
def Obligations.PushesLeaveRegisters : Prop :=
  ∀ (i : Instr) (s t : State), (i = .push0 ∨ i = .push1) → exec i s = .next t →
    t.cw0 = s.cw0 ∧ t.cw1 = s.cw1 ∧ t.n = s.n ∧ t.life = s.life ∧ t.peakCode = s.peakCode ∧
    t.prescalerDiv8 = s.prescalerDiv8 ∧ t.causes = s.causes ∧ t.requests = s.requests ∧
    (i = .push0 ∨ t.result ≠ some .ok → t.dom = s.dom) ∧
    ∃ es, t.trace = s.trace ++ es ∧ t.answers = s.answers.drop es.length

/-! ## Invariants -/

/-- Reset, and every block a construction with a bijective code table gives, meets the invariant, and its lines
hold what its TRACE says (R8, R76, R102). -/
def Obligations.ResetMeetsTheInvariants : Prop :=
  State.reset.Inv ∧ State.reset.LinesFollowTrace ∧
  ∀ (a : ConstructArgs) (answers : List Answer) (s : State), a.peakCode.wf = true →
    construct a answers = .next s → s.Inv ∧ s.LinesFollowTrace

/-- Every step keeps the tags of both control words, the reserved bits of CW1, `N ≥ 4` and the bijective code
table (R76). -/
def Obligations.StepKeepsTagsAndReservedBits : Prop :=
  ∀ s t : State, s.Inv → step s = .next t → t.Inv

/-- Every step keeps the lines at the levels TRACE gives them: the last successful set's level, or Unknown where
none succeeded or the last one failed (R8). -/
def Obligations.StepKeepsLinesAtTheirLastEvents : Prop :=
  ∀ s t : State, s.LinesFollowTrace → step s = .next t → t.LinesFollowTrace

/-- Mirror invariant (R18): after any commands, DOM is the data-out bit of the byte transmitted by the last
`PUSH1` that completed without error; if none has, it is what it was, which after construction is Serial. -/
def Obligations.MirrorHoldsLastCompletedPush1 : Prop :=
  (∀ (is : List Instr) (s : State),
    (runCommands is s).dom =
      match lastPushed1 is s none with
      | some w => if w.getLsbD 0 then .simultaneous else .serial
      | none => s.dom) ∧
  (∀ (a : ConstructArgs) (answers : List Answer) (s : State),
    construct a answers = .next s → s.dom = .serial)

/-- LIFE becomes Active exactly when `begin` completes with every command Ok, and never goes back (R105). That this is
in the step of `begin`'s last command, and that a request counts up the commands of a pseudo-operation that returned
Ok, is the model's (log 9). -/
def Obligations.LifeBecomesActiveExactlyWhenBeginCompletes : Prop :=
  ∀ s t : State, step s = .next t →
    (t.life = .active ↔
      s.life = .active ∨
      (t.result = some .ok ∧ ∃ k qs, s.requests = .pseudo .beginInit k :: qs ∧
        k + 1 = (expand s.n .beginInit).length)) ∧
    ∀ op k qs, s.requests = .pseudo op k :: qs → t.requests = .pseudo op (k + 1) :: qs →
      t.result = some .ok

/-! ## Initialisation and construction -/

/-- `begin` with every line set ok (R104): `5N + 4` steps later (one command a step: log 9) its
`(5 + 120N) + 2(5 + 24R)` line sets have happened, the block is Active, the registers are unchanged, DOM mirrors CW1,
and the lines are idle with RS High and DATA at bit 0 of CW1. From the construction's Serial mode that is
`15 + 120N + 48(N div 4)` sets. -/
def Obligations.BeginRunsClearThenBothPushes : Prop :=
  ∀ (s : State) (qs : List Request) (r : Nat),
    s.requests = .pseudo .beginInit 0 :: qs → 4 ≤ s.n →
    r = (if s.dom = .serial then s.n / 4 else 1) →
    (∀ j < (5 + 120 * s.n) + 2 * (5 + 24 * r), ∀ x, s.answerAt j x = .ok) →
      let u := runSteps (5 * s.n + 4) s
      u.life = .active ∧ u.result = some .ok ∧ u.requests = qs ∧
      u.cw0 = s.cw0 ∧ u.cw1 = s.cw1 ∧ u.n = s.n ∧
      u.dom = (if s.cw1.getLsbD 0 then .simultaneous else .serial) ∧
      u.lines = ⟨if s.cw1.getLsbD 0 then .high else .low, .low, .high, .high⟩ ∧
      u.trace.length = s.trace.length + ((5 + 120 * s.n) + 2 * (5 + 24 * r)) ∧
      (s.dom = .serial →
        u.trace.length = s.trace.length + (15 + 120 * s.n + 48 * (s.n / 4)))

/-- A construction that returns Ok leaves the reset values; with `N ≥ 4` and every set ok it does return Ok
(R101, R102). The optional lines' sets are recorded, and change no line of the block. The empty `requests` and
`result` are the model's choice (logs 1 and 2), and that the reset peak level is 4.0 mA is the spec's own (D5, C7),
which log 17 marks as a choice. -/
def Obligations.ConstructionLeavesResetValues : Prop :=
  ∀ (a : ConstructArgs) (answers : List Answer),
    (∀ s, construct a answers = .next s →
      4 ≤ a.n ∧ ∃ used,
      s = { lines := ⟨.low, .unknown, .high, .unknown⟩
            cw0 := 0b01001100 ||| (a.peakCode.ma40.setWidth 8 <<< 4)
            cw1 := 0b10000000 ||| ((1 - a.prescalerDiv8).setWidth 8 <<< 1)
            dom := .serial
            life := .uninitialized
            trace := [⟨.data, .low, .ok⟩, ⟨.ce, .high, .ok⟩]
              ++ (if a.hasBlank then [⟨.blank, .high, .ok⟩] else [])
              ++ (if a.hasOscSel then [⟨.oscSel, .high, .ok⟩] else [])
              ++ (if a.hasReset then [⟨.reset, .high, .ok⟩] else [])
            n := a.n
            peakCode := a.peakCode
            prescalerDiv8 := a.prescalerDiv8
            causes := a.causes
            answers := answers.drop used
            requests := []
            result := none }) ∧
    (4 ≤ a.n → (∀ k < 5, answers[k]? = some .ok) → ∃ s, construct a answers = .next s)

/-- Construction with `N < 4` returns `ConfigRefused(N)`, whatever the lines would answer (R91). -/
def Obligations.NarrowConstructionIsRefused : Prop :=
  ∀ (a : ConstructArgs) (answers : List Answer), a.n < 4 →
    construct a answers = .fault (.configRefused a.n)

/-- Construction is atomic in its result (R103). With `N ≥ 4`: if its line sets, in order, would all be answered ok
it gives a block; if the set `x` fails after the sets `pre` were ok it gives no block and the line error of `x`, with
the sets up to `x` on the wire and none after it; one of the two is so. -/
def Obligations.FailedConstructionLeavesNoBlock : Prop :=
  ∀ (a : ConstructArgs) (answers : List Answer), 4 ≤ a.n →
    let sets : List LineSet :=
      [⟨.data, .low⟩, ⟨.ce, .high⟩]
        ++ (if a.hasBlank then [⟨.blank, .high⟩] else [])
        ++ (if a.hasOscSel then [⟨.oscSel, .high⟩] else [])
        ++ (if a.hasReset then [⟨.reset, .high⟩] else [])
    let start := preConstruction a answers
    (start.AllOk sets → ∃ s, construct a answers = .next s) ∧
    (∀ pre x post c, sets = pre ++ x :: post → start.FailsAt pre x c →
      construct a answers = .fault (.constructionFailed x.line c
        ((pre.map fun y => ⟨y.line, y.level, .ok⟩) ++ [⟨x.line, x.level, .err c⟩]))) ∧
    (start.AllOk sets ∨ ∃ pre x post c, sets = pre ++ x :: post ∧ start.FailsAt pre x c)

/-- `State.reset` is the construction with the free arguments of Config, every set answered ok (the model's
choice of these arguments: log 4). -/
def Obligations.ResetIsAConstruction : Prop :=
  ∃ rest, construct Config.args (List.replicate 5 .ok) = .next { State.reset with answers := rest }

/-! ## The wire and the display -/

/-- `write_dots` of any number of bytes (R57) is one `ENTER_DOT`, a `SHIFT` for each byte in order, one `LATCH`. With
no error it emits `5 + 24k` line sets, and issued with CE High, no frame open and DATA known, CLK as it may be, the
model's reading of an idle wire (log 18), it is read as one dot-space frame of the bytes in argument order, each from
its top bit; its length is not checked against `5N`. -/
def Obligations.WriteDotsIsOneFrameInArgumentOrder : Prop :=
  ∀ (bytes : List Byte) (s : State),
    expand s.n (.writeDots bytes) = .enterDot :: (bytes.map .shift ++ [.latch]) ∧
    (AllReturnOk (expand s.n (.writeDots bytes)) s →
      ∃ es, (runCommands (expand s.n (.writeDots bytes)) s).trace = s.trace ++ es ∧
        es.length = 5 + 24 * bytes.length ∧
        ∀ r : Reading, r.lines = s.lines → r.frame = none → s.lines.ce = .high → s.lines.data ≠ .unknown →
          r.readAll es =
            [⟨(runCommands (expand s.n (.writeDots bytes)) s).lines, none,
              r.latched ++ [⟨.dot, bytes.flatMap fun b =>
                [7, 6, 5, 4, 3, 2, 1, 0].map fun k => if b.getLsbD k then .one else .zero, false⟩], r.loose⟩])

/-- `clear` is `write_dots` of `5N` bytes `0x00`; with no error it emits `5 + 120N` line sets (R58). -/
def Obligations.ClearSendsAFullBlankImage : Prop :=
  ∀ s : State,
    expand s.n .clear = expand s.n (.writeDots (List.replicate (5 * s.n) 0x00)) ∧
    (AllReturnOk (expand s.n .clear) s →
      (runCommands (expand s.n .clear) s).trace.length = s.trace.length + (5 + 120 * s.n))

/-- The pseudo-operations expand as the table of R55 lists them, and `begin` ends by making the block Active. That
`display_sleep`, `display_wake` and `set_oscillator_prescaler` push their word (D20) and what `clear` sends (D17) are
the spec's own choices. -/
def Obligations.PseudoOperationsExpandAsListed : Prop :=
  (∀ n : Nat,
    (∀ b, expand n (.setBrightness b) = [.setBrt b, .push0]) ∧
    (∀ l, expand n (.setPeakCurrent l) = [.setCur l, .push0]) ∧
    expand n (.setSleep true) = [.setWake .sleep, .push0] ∧
    expand n (.setSleep false) = [.setWake .wake, .push0] ∧
    expand n .displaySleep = [.setWake .sleep, .push0] ∧
    expand n .displayWake = [.setWake .wake, .push0] ∧
    expand n .setSerialDataOut = [.setFan .serial, .push1] ∧
    expand n .setSimultaneousDataOut = [.setFan .simultaneous, .push1] ∧
    (∀ p, expand n (.setOscillatorPrescaler p) = [.setPre p, .push1]) ∧
    (∀ bytes, expand n (.writeDots bytes) = [.enterDot] ++ bytes.map .shift ++ [.latch]) ∧
    (∀ bytes, expand n (.printColumns bytes) = expand n (.writeDots bytes)) ∧
    expand n .clear = expand n (.writeDots (List.replicate (5 * n) 0x00)) ∧
    expand n .beginInit = expand n .clear ++ [.push0, .push1]) ∧
  ∀ (s t : State) (k : Nat) (qs : List Request),
    s.requests = .pseudo .beginInit k :: qs → k + 1 = (expand s.n .beginInit).length →
      step s = .next t → t.result = some .ok → t.life = .active

/-- Every pseudo-operation expands to commands in the order of a well-formed stream, and issued from the idle state and
returning Ok throughout it is one (R67, R108). -/
def Obligations.PseudoOperationsAreWellFormedStreams : Prop :=
  ∀ (n : Nat) (op : PseudoOp), wellFormedStream (expand n op) = true ∧
    ∀ s : State, s.lines.phase = .idle → AllReturnOk (expand n op) s → s.issuesWellFormed (expand n op) = true

/-- A stream in the order of a well-formed one, issued with CE High, no frame open and DATA known, that returns Ok
throughout has exactly one reading: the frames of its transactions and pushes, in order, each with its bytes most significant
bit first, and no frame left open (R29, R30, R39 to R42, R67). R67 asks for the idle state, CE High and CLK Low; that
CE High, no open frame and a known DATA are enough, CLK Unknown after construction included, is the model's reading of
R39, R62 and vector T13 (log 18). -/
def Obligations.WellFormedStreamsAreReadAsTheirFrames : Prop :=
  ∀ (is : List Instr) (s : State) (r : Reading),
    wellFormedStream is = true → AllReturnOk is s →
    r.lines = s.lines → r.frame = none → s.lines.ce = .high → s.lines.data ≠ .unknown →
      ∃ es, (runCommands is s).trace = s.trace ++ es ∧
        r.readAll es = [⟨(runCommands is s).lines, none, r.latched ++ framesOf is s none, r.loose⟩]

/-- A stream in the right order that starts in the idle state, CE High and CLK Low, and returns Ok throughout is a
well-formed one, each of its transactions issued from idle, and leaves the lines idle (R66, R67, R114). -/
def Obligations.OrderedStreamsFromIdleAreWellFormed : Prop :=
  ∀ (is : List Instr) (s : State),
    wellFormedStream is = true → s.lines.ce = .high → s.lines.clk = .low → AllReturnOk is s →
      s.issuesWellFormed is = true ∧ (runCommands is s).lines.phase = .idle

/-- A push that returns Ok, in an Active block whose `begin` has repaired the display, puts the pushed word into
every device of the chain when `N` is a multiple of 4 and DOM matches the mode the chain is in (R85, R112); on the
wire it is one latched control frame of its copies. The view of the display is the model's (log 13). -/
def Obligations.OkPushReachesEveryDevice : Prop :=
  ∀ (i : Instr) (s t : State) (qs : List Request) (d : Display) (r : Reading),
    (i = .push0 ∨ i = .push1) → s.requests = .word (encode i) :: qs → s.life = .active → s.n % 4 = 0 →
    d.ready = true → d.inStep = true → d.stage = .between →
    s.lines.ce = .high → s.lines.data ≠ .unknown → step s = .next t → t.result = some .ok →
    r.lines = s.lines → r.frame = none →
      (∃ es, t.trace = s.trace ++ es ∧
        r.readAll es = [⟨t.lines, none, r.latched ++
          [frameOf .control (List.replicate s.repeatCount (if i = .push0 then s.cw0 else s.cw1))], r.loose⟩]) ∧
      (d.watch s).ready = true ∧ (d.watch s).inStep = true ∧ (d.watch s).stage = .between ∧
      (i = .push0 → (d.watch s).cw0 = some s.cw0) ∧
      (i = .push1 → (d.watch s).cw1 = some s.cw1 ∧ (d.watch s).mode = some t.dom)

/-- Repeating a push is idempotent on the device (R34): when a push of an Active block, its display repaired, has
reached every device, the same push again leaves the view as it is, a push that sends the display to sleep and one
that changes the mode included. -/
def Obligations.RepeatedPushLeavesTheDisplay : Prop :=
  ∀ (i : Instr) (s t u : State) (d : Display),
    (i = .push0 ∨ i = .push1) →
    s.life = .active → 4 ≤ s.n → s.n % 4 = 0 → d.ready = true → d.inStep = true → d.stage = .between →
    s.lines.ce = .high → s.lines.data ≠ .unknown →
    exec i s = .next t → t.result = some .ok → exec i t = .next u → u.result = some .ok →
      (d.afterCommand i s t).afterCommand i t u = d.afterCommand i s t

/-- A complete `begin` repairs the display (R99 item 7, R104, R109, R112): issued between transactions with CE High, or
in a frame a line error left open, `N` a multiple of 4, and with every line set ok, it leaves every device with both
control words and the chain in the mode DOM says, whatever was known before. Its pushes must reach every device: DOM
matches the mode of the chain, or `N` is 4, where one copy is right in both modes (R110). -/
def Obligations.BeginRepairsTheDisplay : Prop :=
  ∀ (s : State) (qs : List Request) (r : Nat) (d : Display),
    s.requests = .pseudo .beginInit 0 :: qs → 4 ≤ s.n → s.n % 4 = 0 →
    (d.stage = .between ∧ s.lines.ce = .high) ∨ d.stage = .stray →
    d.inStep = true ∨ s.n = 4 →
    r = (if s.dom = .serial then s.n / 4 else 1) →
    (∀ j < (5 + 120 * s.n) + 2 * (5 + 24 * r), ∀ x, s.answerAt j x = .ok) →
      Display.watchSteps (5 * s.n + 4) d s =
        ⟨some s.cw0, some s.cw1, some (if s.cw1.getLsbD 0 then .simultaneous else .serial), true, true,
          .between, false⟩

/-- After any line error nothing is known of the display's configuration, and after one of a `PUSH1` that DOM matches
the chain's mode is not known either (R89, R109, R110). -/
def Obligations.LineErrorLeavesTheDisplayUnknown : Prop :=
  ∀ (s t : State) (i : Instr) (d : Display) (l : Line) (c : Cause),
    s.fetch = .command i → step s = .next t → t.result = some (.lineError l c) →
      (d.watch s).ready = false ∧ (d.watch s).cw0 = none ∧ (d.watch s).cw1 = none ∧ (d.watch s).mode = none ∧
      (i = .push1 → (d.watch s).inStep = false)

/-- A view in which no `begin` has repaired the display since its state was left unknown knows nothing of its
configuration; every step keeps that, and only the last command of a `begin`, returning Ok in a block then Active,
ends it (R99 item 7, R102, R109, R112). -/
def Obligations.DisplayStaysUnknownUntilBeginCompletes : Prop :=
  ∀ (s : State) (d : Display), (d.ready = false → d.cw0 = none ∧ d.cw1 = none ∧ d.mode = none) →
    ((d.watch s).ready = false → (d.watch s).cw0 = none ∧ (d.watch s).cw1 = none ∧ (d.watch s).mode = none) ∧
    ∀ t, step s = .next t → d.ready = false → (d.watch s).ready = true →
      t.life = .active ∧ t.result = some .ok ∧
      ∃ k qs, s.requests = .pseudo .beginInit k :: qs ∧ k + 1 = (expand s.n .beginInit).length

/-- A stream the spec gives no device effect leaves nothing known, that DOM matches the chain's mode included (R67,
R108): a `SHIFT` or `LATCH` between transactions; an encoder command, a push or an address setup inside a transaction;
a dot byte with bit 7 at 1 (R53); the latch of an empty dot frame or of a control frame of single commands, in a
transaction not begun in a frame that a line error left open (log 13); a `PUSH1` in such a frame (R110). -/
def Obligations.StreamsWithoutDeviceEffectLeaveNothingKnown : Prop :=
  ∀ (i : Instr) (s t : State) (d : Display), exec i s = .next t →
    (d.stage = .between ∧ ((∃ b, i = .shift b) ∨ i = .latch)) ∨
    (((∃ f, d.stage = .dotFrame f) ∨ d.stage = .ctrlFrame) ∧
      ((∃ g, fieldWritten i = some g) ∨ i = .push0 ∨ i = .push1 ∨ i = .enterDot ∨ i = .enterCtrl)) ∨
    ((∃ f, d.stage = .dotFrame f) ∧ t.result = some .ok ∧ ∃ b : Byte, i = .shift b ∧ b.getLsbD 7 = true) ∨
    ((d.stage = .dotFrame false ∨ d.stage = .ctrlFrame) ∧ i = .latch ∧ t.lines.ce = .high) ∨
    (d.stage = .stray ∧ i = .push1) →
      d.afterCommand i s t =
        ⟨none, none, none, false, false, if t.lines.ce = .high then .between else .stray, false⟩

/-- An aborted transaction other than `PUSH1` leaves the fan-out match (R109, R110): after an address setup, a `PUSH0`, a
`SHIFT` or a `LATCH` of a well-formed transaction that ended in a line error, and after anything but a `PUSH1` in a
frame a line error left open, nothing is known of the configuration, but that DOM matches the chain's mode is known as
far as it was before, and the stream stands between transactions if CE is High and in a frame left open otherwise. That
none of these breaks the match is the model's choice (log 13). -/
def Obligations.AbortedTransactionsLeaveTheFanOutMatch : Prop :=
  ∀ (i : Instr) (s t : State) (d : Display), exec i s = .next t →
    (∃ l c, t.result = some (.lineError l c) ∧
      (((i = .enterDot ∨ i = .enterCtrl ∨ i = .push0) ∧ d.stage = .between) ∨
        ((∃ b, i = .shift b) ∧ ((∃ f, d.stage = .dotFrame f) ∨ d.stage = .ctrlFrame)) ∨
        (i = .latch ∧ (d.stage = .dotFrame true ∨
          ((d.stage = .dotFrame false ∨ d.stage = .ctrlFrame) ∧ t.lines.ce ≠ .high))))) ∨
    (d.stage = .stray ∧ i ≠ .push1) →
      let e := d.afterCommand i s t
      e.cw0 = none ∧ e.cw1 = none ∧ e.mode = none ∧ e.ready = false ∧ e.inStep = d.inStep ∧
      e.stage = (if t.lines.ce = .high then .between else .stray)

/-- How many bits a `SHIFT` cut short inside an open frame has sampled (R64): failing at CLK Low or at DATA of bit
`7 - j`, exactly the `j` bits above it; failing at its CLK High, those and possibly that bit too. -/
def Obligations.ShiftCutShortSamplesTheBitsBeforeIt : Prop :=
  ∀ (b : Byte) (s t : State) (r : Reading) (f : Frame) (j m : Nat) (c : Cause) (x : LineSet),
    j < 8 → m < 3 → (shiftSets b)[3 * j + m]? = some x → s.FailsAt ((shiftSets b).take (3 * j + m)) x c →
    exec (.shift b) s = .next t → r.lines = s.lines → r.frame = some f →
      ∃ es, t.trace = s.trace ++ es ∧
        (r.readAll es).map (fun q => q.frame.map Frame.bits) =
          (if m < 2 then [some (f.bits ++ (samplesOfByte b).take j)]
           else [some (f.bits ++ (samplesOfByte b).take j), some (f.bits ++ (samplesOfByte b).take (j + 1))])
end

