-- ==== Sys2Proof/Laws/Codec.lean ====
section
/-! SUPPORT. The fields of a command word, and what each operand form accepts (30_encoding.md R43, R45). -/

namespace Sys2Proof.Laws

open Sys2Proof

/-- A byte is its value. -/
theorem byte_of_toNat {a : Byte} {k : Nat} (h : a.toNat = k) : a = BitVec.ofNat 8 k := by
  subst h; simp

/-- Bit `i` of a word made of two fields. -/
theorem getLsbD_fields (a b : Byte) (i : Nat) :
    BitVec.getLsbD (w := 16) (a ++ b) i = if i < 8 then b.getLsbD i else a.getLsbD (i - 8) := by
  have h := BitVec.getLsbD_append (x := a) (y := b) (i := i)
  by_cases hi : i < 8 <;> simp_all

@[simp] theorem opField_append (a b : Byte) : opField (a ++ b) = a := by
  apply BitVec.eq_of_getLsbD_eq
  intro i hi
  rw [opField, BitVec.getLsbD_extractLsb', getLsbD_fields]
  simp [hi]

@[simp] theorem opdField_append (a b : Byte) : opdField (a ++ b) = b := by
  apply BitVec.eq_of_getLsbD_eq
  intro i hi
  rw [opdField, BitVec.getLsbD_extractLsb', getLsbD_fields]
  simp [hi]

/-- A word is its opcode above its operand. -/
theorem fields_append (w : Word) : opField w ++ opdField w = w := by
  apply BitVec.eq_of_getLsbD_eq
  intro i hi
  rw [getLsbD_fields, opField, opdField, BitVec.getLsbD_extractLsb', BitVec.getLsbD_extractLsb']
  by_cases h : i < 8
  · simp [h]
  · have h8 : i - 8 < 8 := by omega
    have e : 8 + (i - 8) = i := by omega
    simp [h, h8, e]

/-- Decoding looks at the two fields only. -/
theorem decode_append (a b : Byte) : decode (a ++ b) = decodeFields a b := by
  simp [decode]

/-- The zero form accepts the operand 0 and nothing else. -/
theorem zeroForm_ok {op opd : Byte} {f i : Instr} :
    zeroForm op opd f = .ok i ↔ opd = 0 ∧ f = i := by
  unfold zeroForm
  split <;> simp_all

/-- The lvl2 form accepts the operands 0 to 3. -/
theorem lvl2Form_ok {op opd : Byte} {f : PeakLevel → Instr} {i : Instr} :
    lvl2Form op opd f = .ok i ↔
      (opd = 0 ∧ f .ma40 = i) ∨ (opd = 1 ∧ f .ma64 = i) ∨ (opd = 2 ∧ f .ma93 = i) ∨
        (opd = 3 ∧ f .ma128 = i) := by
  simp only [lvl2Form, BitVec.toNat_eq]
  generalize opd.toNat = k
  rcases k with _ | _ | _ | _ | k <;> simp

/-- The bit1 form accepts the operands 0 and 1. -/
theorem bit1Form_ok {op opd : Byte} {f g i : Instr} :
    bit1Form op opd f g = .ok i ↔ (opd = 0 ∧ f = i) ∨ (opd = 1 ∧ g = i) := by
  simp only [bit1Form, BitVec.toNat_eq]
  generalize opd.toNat = k
  rcases k with _ | _ | k <;> simp

/-- Masking a word masks its two fields. -/
theorem append_and (a b c d : Byte) :
    (a ++ b : Word) &&& (c ++ d : Word) = ((a &&& c) ++ (b &&& d) : Word) := by
  apply BitVec.eq_of_getLsbD_eq
  intro i hi
  rw [BitVec.getLsbD_and, getLsbD_fields, getLsbD_fields, getLsbD_fields]
  split <;> simp

/-- Two words are equal when both fields are. -/
theorem append_inj (a b c d : Byte) : (a ++ b : Word) = c ++ d ↔ a = c ∧ b = d := by
  constructor
  · intro h
    exact ⟨by simpa using congrArg opField h, by simpa using congrArg opdField h⟩
  · rintro ⟨rfl, rfl⟩; rfl

/-- A row selects a word when both fields, masked, are the row's. -/
theorem selects_append (a b : Byte) (v m : Word) :
    (((a ++ b : Word) &&& m) == v) = (((a &&& opField m) == opField v) && ((b &&& opdField m) == opdField v)) := by
  conv => lhs; rw [← fields_append m, ← fields_append v, append_and]
  rw [Bool.eq_iff_iff, Bool.and_eq_true, beq_iff_eq, beq_iff_eq, beq_iff_eq, append_inj]

end Sys2Proof.Laws
end

