-- ==== Sys2Proof/Laws/State.lean ====
section
/-! SUPPORT. What each update of State leaves in each field: one lemma per field and update. -/

namespace Sys2Proof.Laws

open Sys2Proof Sys2Proof.Machine

variable (s : State)

@[simp] theorem record_lines (e : Event) : (s.record e).lines = s.lines.afterEvent e := rfl
@[simp] theorem record_cw0 (e : Event) : (s.record e).cw0 = s.cw0 := rfl
@[simp] theorem record_cw1 (e : Event) : (s.record e).cw1 = s.cw1 := rfl
@[simp] theorem record_dom (e : Event) : (s.record e).dom = s.dom := rfl
@[simp] theorem record_life (e : Event) : (s.record e).life = s.life := rfl
@[simp] theorem record_trace (e : Event) : (s.record e).trace = s.trace ++ [e] := rfl
@[simp] theorem record_n (e : Event) : (s.record e).n = s.n := rfl
@[simp] theorem record_peakCode (e : Event) : (s.record e).peakCode = s.peakCode := rfl
@[simp] theorem record_prescalerDiv8 (e : Event) : (s.record e).prescalerDiv8 = s.prescalerDiv8 := rfl
@[simp] theorem record_causes (e : Event) : (s.record e).causes = s.causes := rfl
@[simp] theorem record_answers (e : Event) : (s.record e).answers = s.answers.drop 1 := rfl
@[simp] theorem record_requests (e : Event) : (s.record e).requests = s.requests := rfl
@[simp] theorem record_result (e : Event) : (s.record e).result = s.result := rfl

@[simp] theorem returnOk_lines : (s.returnOk).lines = s.lines := rfl
@[simp] theorem returnOk_cw0 : (s.returnOk).cw0 = s.cw0 := rfl
@[simp] theorem returnOk_cw1 : (s.returnOk).cw1 = s.cw1 := rfl
@[simp] theorem returnOk_dom : (s.returnOk).dom = s.dom := rfl
@[simp] theorem returnOk_life : (s.returnOk).life = s.life := rfl
@[simp] theorem returnOk_trace : (s.returnOk).trace = s.trace := rfl
@[simp] theorem returnOk_n : (s.returnOk).n = s.n := rfl
@[simp] theorem returnOk_peakCode : (s.returnOk).peakCode = s.peakCode := rfl
@[simp] theorem returnOk_prescalerDiv8 : (s.returnOk).prescalerDiv8 = s.prescalerDiv8 := rfl
@[simp] theorem returnOk_causes : (s.returnOk).causes = s.causes := rfl
@[simp] theorem returnOk_answers : (s.returnOk).answers = s.answers := rfl
@[simp] theorem returnOk_requests : (s.returnOk).requests = s.requests := rfl
@[simp] theorem returnOk_result : (s.returnOk).result = some .ok := rfl

@[simp] theorem raise_lines (r : Result) : (s.raise r).lines = s.lines := rfl
@[simp] theorem raise_cw0 (r : Result) : (s.raise r).cw0 = s.cw0 := rfl
@[simp] theorem raise_cw1 (r : Result) : (s.raise r).cw1 = s.cw1 := rfl
@[simp] theorem raise_dom (r : Result) : (s.raise r).dom = s.dom := rfl
@[simp] theorem raise_life (r : Result) : (s.raise r).life = s.life := rfl
@[simp] theorem raise_trace (r : Result) : (s.raise r).trace = s.trace := rfl
@[simp] theorem raise_n (r : Result) : (s.raise r).n = s.n := rfl
@[simp] theorem raise_peakCode (r : Result) : (s.raise r).peakCode = s.peakCode := rfl
@[simp] theorem raise_prescalerDiv8 (r : Result) : (s.raise r).prescalerDiv8 = s.prescalerDiv8 := rfl
@[simp] theorem raise_causes (r : Result) : (s.raise r).causes = s.causes := rfl
@[simp] theorem raise_answers (r : Result) : (s.raise r).answers = s.answers := rfl
@[simp] theorem raise_requests (r : Result) : (s.raise r).requests = s.requests := rfl
@[simp] theorem raise_result (r : Result) : (s.raise r).result = some r := rfl

@[simp] theorem writeCw0_lines (v : Byte) : (s.writeCw0 v).lines = s.lines := rfl
@[simp] theorem writeCw0_cw0 (v : Byte) : (s.writeCw0 v).cw0 = v := rfl
@[simp] theorem writeCw0_cw1 (v : Byte) : (s.writeCw0 v).cw1 = s.cw1 := rfl
@[simp] theorem writeCw0_dom (v : Byte) : (s.writeCw0 v).dom = s.dom := rfl
@[simp] theorem writeCw0_life (v : Byte) : (s.writeCw0 v).life = s.life := rfl
@[simp] theorem writeCw0_trace (v : Byte) : (s.writeCw0 v).trace = s.trace := rfl
@[simp] theorem writeCw0_n (v : Byte) : (s.writeCw0 v).n = s.n := rfl
@[simp] theorem writeCw0_peakCode (v : Byte) : (s.writeCw0 v).peakCode = s.peakCode := rfl
@[simp] theorem writeCw0_prescalerDiv8 (v : Byte) : (s.writeCw0 v).prescalerDiv8 = s.prescalerDiv8 := rfl
@[simp] theorem writeCw0_causes (v : Byte) : (s.writeCw0 v).causes = s.causes := rfl
@[simp] theorem writeCw0_answers (v : Byte) : (s.writeCw0 v).answers = s.answers := rfl
@[simp] theorem writeCw0_requests (v : Byte) : (s.writeCw0 v).requests = s.requests := rfl
@[simp] theorem writeCw0_result (v : Byte) : (s.writeCw0 v).result = s.result := rfl

@[simp] theorem writeCw1_lines (v : Byte) : (s.writeCw1 v).lines = s.lines := rfl
@[simp] theorem writeCw1_cw0 (v : Byte) : (s.writeCw1 v).cw0 = s.cw0 := rfl
@[simp] theorem writeCw1_cw1 (v : Byte) : (s.writeCw1 v).cw1 = v := rfl
@[simp] theorem writeCw1_dom (v : Byte) : (s.writeCw1 v).dom = s.dom := rfl
@[simp] theorem writeCw1_life (v : Byte) : (s.writeCw1 v).life = s.life := rfl
@[simp] theorem writeCw1_trace (v : Byte) : (s.writeCw1 v).trace = s.trace := rfl
@[simp] theorem writeCw1_n (v : Byte) : (s.writeCw1 v).n = s.n := rfl
@[simp] theorem writeCw1_peakCode (v : Byte) : (s.writeCw1 v).peakCode = s.peakCode := rfl
@[simp] theorem writeCw1_prescalerDiv8 (v : Byte) : (s.writeCw1 v).prescalerDiv8 = s.prescalerDiv8 := rfl
@[simp] theorem writeCw1_causes (v : Byte) : (s.writeCw1 v).causes = s.causes := rfl
@[simp] theorem writeCw1_answers (v : Byte) : (s.writeCw1 v).answers = s.answers := rfl
@[simp] theorem writeCw1_requests (v : Byte) : (s.writeCw1 v).requests = s.requests := rfl
@[simp] theorem writeCw1_result (v : Byte) : (s.writeCw1 v).result = s.result := rfl

@[simp] theorem writeDom_lines (m : FanMode) : (s.writeDom m).lines = s.lines := rfl
@[simp] theorem writeDom_cw0 (m : FanMode) : (s.writeDom m).cw0 = s.cw0 := rfl
@[simp] theorem writeDom_cw1 (m : FanMode) : (s.writeDom m).cw1 = s.cw1 := rfl
@[simp] theorem writeDom_dom (m : FanMode) : (s.writeDom m).dom = m := rfl
@[simp] theorem writeDom_life (m : FanMode) : (s.writeDom m).life = s.life := rfl
@[simp] theorem writeDom_trace (m : FanMode) : (s.writeDom m).trace = s.trace := rfl
@[simp] theorem writeDom_n (m : FanMode) : (s.writeDom m).n = s.n := rfl
@[simp] theorem writeDom_peakCode (m : FanMode) : (s.writeDom m).peakCode = s.peakCode := rfl
@[simp] theorem writeDom_prescalerDiv8 (m : FanMode) : (s.writeDom m).prescalerDiv8 = s.prescalerDiv8 := rfl
@[simp] theorem writeDom_causes (m : FanMode) : (s.writeDom m).causes = s.causes := rfl
@[simp] theorem writeDom_answers (m : FanMode) : (s.writeDom m).answers = s.answers := rfl
@[simp] theorem writeDom_requests (m : FanMode) : (s.writeDom m).requests = s.requests := rfl
@[simp] theorem writeDom_result (m : FanMode) : (s.writeDom m).result = s.result := rfl

@[simp] theorem activate_lines : (s.activate).lines = s.lines := rfl
@[simp] theorem activate_cw0 : (s.activate).cw0 = s.cw0 := rfl
@[simp] theorem activate_cw1 : (s.activate).cw1 = s.cw1 := rfl
@[simp] theorem activate_dom : (s.activate).dom = s.dom := rfl
@[simp] theorem activate_life : (s.activate).life = .active := rfl
@[simp] theorem activate_trace : (s.activate).trace = s.trace := rfl
@[simp] theorem activate_n : (s.activate).n = s.n := rfl
@[simp] theorem activate_peakCode : (s.activate).peakCode = s.peakCode := rfl
@[simp] theorem activate_prescalerDiv8 : (s.activate).prescalerDiv8 = s.prescalerDiv8 := rfl
@[simp] theorem activate_causes : (s.activate).causes = s.causes := rfl
@[simp] theorem activate_answers : (s.activate).answers = s.answers := rfl
@[simp] theorem activate_requests : (s.activate).requests = s.requests := rfl
@[simp] theorem activate_result : (s.activate).result = s.result := rfl

@[simp] theorem withRequests_lines (qs : List Request) : (s.withRequests qs).lines = s.lines := rfl
@[simp] theorem withRequests_cw0 (qs : List Request) : (s.withRequests qs).cw0 = s.cw0 := rfl
@[simp] theorem withRequests_cw1 (qs : List Request) : (s.withRequests qs).cw1 = s.cw1 := rfl
@[simp] theorem withRequests_dom (qs : List Request) : (s.withRequests qs).dom = s.dom := rfl
@[simp] theorem withRequests_life (qs : List Request) : (s.withRequests qs).life = s.life := rfl
@[simp] theorem withRequests_trace (qs : List Request) : (s.withRequests qs).trace = s.trace := rfl
@[simp] theorem withRequests_n (qs : List Request) : (s.withRequests qs).n = s.n := rfl
@[simp] theorem withRequests_peakCode (qs : List Request) : (s.withRequests qs).peakCode = s.peakCode := rfl
@[simp] theorem withRequests_prescalerDiv8 (qs : List Request) : (s.withRequests qs).prescalerDiv8 = s.prescalerDiv8 := rfl
@[simp] theorem withRequests_causes (qs : List Request) : (s.withRequests qs).causes = s.causes := rfl
@[simp] theorem withRequests_answers (qs : List Request) : (s.withRequests qs).answers = s.answers := rfl
@[simp] theorem withRequests_requests (qs : List Request) : (s.withRequests qs).requests = qs := rfl
@[simp] theorem withRequests_result (qs : List Request) : (s.withRequests qs).result = s.result := rfl

@[simp] theorem dropRequest_lines : (s.dropRequest).lines = s.lines := rfl
@[simp] theorem dropRequest_cw0 : (s.dropRequest).cw0 = s.cw0 := rfl
@[simp] theorem dropRequest_cw1 : (s.dropRequest).cw1 = s.cw1 := rfl
@[simp] theorem dropRequest_dom : (s.dropRequest).dom = s.dom := rfl
@[simp] theorem dropRequest_life : (s.dropRequest).life = s.life := rfl
@[simp] theorem dropRequest_trace : (s.dropRequest).trace = s.trace := rfl
@[simp] theorem dropRequest_n : (s.dropRequest).n = s.n := rfl
@[simp] theorem dropRequest_peakCode : (s.dropRequest).peakCode = s.peakCode := rfl
@[simp] theorem dropRequest_prescalerDiv8 : (s.dropRequest).prescalerDiv8 = s.prescalerDiv8 := rfl
@[simp] theorem dropRequest_causes : (s.dropRequest).causes = s.causes := rfl
@[simp] theorem dropRequest_answers : (s.dropRequest).answers = s.answers := rfl
@[simp] theorem dropRequest_requests : (s.dropRequest).requests = s.requests.drop 1 := rfl
@[simp] theorem dropRequest_result : (s.dropRequest).result = s.result := rfl

end Sys2Proof.Laws
end

