-- ==== Sys2Proof/Laws/Sets.lean ====
section
/-! SUPPORT. Everything a sequence of line sets can do (40_transfer_engine.md R60, R88): it ends well when every
set is answered ok, or at the first set that is not, and in both cases the state it leaves is given in full. -/

namespace Sys2Proof.Laws

open Sys2Proof Sys2Proof.Machine

/-- Recording a list of events, in order. -/
def recordAll (s : State) (es : List Event) : State := es.foldl State.record s

/-- The events of line sets all answered ok. -/
def okEvents (xs : List LineSet) : List Event := xs.map fun x => ⟨x.line, x.level, .ok⟩

@[simp] theorem recordAll_nil (s : State) : recordAll s [] = s := rfl

@[simp] theorem recordAll_cons (s : State) (e : Event) (es : List Event) :
    recordAll s (e :: es) = recordAll (s.record e) es := rfl

theorem recordAll_append (s : State) (es fs : List Event) :
    recordAll s (es ++ fs) = recordAll (recordAll s es) fs := by
  simp [recordAll]

/-- Recording changes the lines, TRACE and the pending answers, and nothing else. -/
theorem recordAll_eq (s : State) (es : List Event) :
    recordAll s es =
      { s with
        lines := es.foldl Lines.afterEvent s.lines
        trace := s.trace ++ es
        answers := s.answers.drop es.length } := by
  induction es generalizing s with
  | nil => simp
  | cons e es ih => simp [ih, State.record]

@[simp] theorem okEvents_nil : okEvents [] = [] := rfl

@[simp] theorem okEvents_cons (x : LineSet) (xs : List LineSet) :
    okEvents (x :: xs) = ⟨x.line, x.level, .ok⟩ :: okEvents xs := rfl

@[simp] theorem okEvents_append (xs ys : List LineSet) :
    okEvents (xs ++ ys) = okEvents xs ++ okEvents ys := by simp [okEvents]

@[simp] theorem okEvents_length (xs : List LineSet) : (okEvents xs).length = xs.length := by
  simp [okEvents]

/-- After one event the oracle's answers move up by one. -/
@[simp] theorem answerAt_record (s : State) (e : Event) (j : Nat) (x : LineSet) :
    (s.record e).answerAt j x = s.answerAt (j + 1) x := by
  unfold State.answerAt State.record
  simp only [List.getElem?_drop, List.length_append, List.length_singleton]
  rw [Nat.add_comm 1 j, Nat.add_right_comm, Nat.add_assoc]

theorem answerAt_recordAll (s : State) (es : List Event) (j : Nat) (x : LineSet) :
    (recordAll s es).answerAt j x = s.answerAt (j + es.length) x := by
  induction es generalizing s with
  | nil => simp
  | cons e es ih => simp [ih, Nat.add_assoc]

@[simp] theorem allOk_nil (s : State) : s.AllOk [] := by
  intro j h; simp at h

/-- All ok: the next set is, and so are the others after it. -/
theorem allOk_cons (s : State) (x : LineSet) (xs : List LineSet) (e : Event) :
    s.AllOk (x :: xs) ↔ s.answerAt 0 x = .ok ∧ (s.record e).AllOk xs := by
  constructor
  · intro h
    refine ⟨h 0 (by simp), fun j hj => ?_⟩
    rw [answerAt_record]
    exact h (j + 1) (by simpa using hj)
  · rintro ⟨h0, hr⟩ j hj
    cases j with
    | zero => exact h0
    | succ j =>
      have := hr j (by simpa using hj)
      rwa [answerAt_record] at this

theorem allOk_append (s : State) (xs ys : List LineSet) :
    s.AllOk (xs ++ ys) ↔ s.AllOk xs ∧ (recordAll s (okEvents xs)).AllOk ys := by
  induction xs generalizing s with
  | nil => simp
  | cons x xs ih =>
    rw [List.cons_append, allOk_cons s x _ ⟨x.line, x.level, .ok⟩,
      allOk_cons s x _ ⟨x.line, x.level, .ok⟩, ih, okEvents_cons, recordAll_cons, and_assoc]

/-- When every set is answered ok, all of them happen. -/
theorem runSets_allOk (xs : List LineSet) (s : State) (h : s.AllOk xs) :
    runSets xs s = .done (recordAll s (okEvents xs)) := by
  induction xs generalizing s with
  | nil => rfl
  | cons x xs ih =>
    obtain ⟨h0, hr⟩ := (allOk_cons s x xs ⟨x.line, x.level, .ok⟩).1 h
    simp only [runSets, h0, LineSet.event, okEvents_cons, recordAll_cons]
    exact ih _ hr

/-- Two sequences, one after the other. -/
theorem runSets_append (xs ys : List LineSet) (s : State) :
    runSets (xs ++ ys) s =
      match runSets xs s with
      | .done t => runSets ys t
      | .failed l c t => .failed l c t := by
  induction xs generalizing s with
  | nil => rfl
  | cons x xs ih =>
    simp only [List.cons_append, runSets]
    cases s.answerAt 0 x with
    | ok => exact ih _
    | err c => rfl

/-- The first set that fails ends the sequence; the sets before it have happened, those after it have not. -/
theorem runSets_failsAt (pre : List LineSet) (x : LineSet) (post : List LineSet) (s : State) (c : Cause)
    (h : s.FailsAt pre x c) :
    runSets (pre ++ x :: post) s =
      .failed x.line c (recordAll s (okEvents pre ++ [⟨x.line, x.level, .err c⟩])) := by
  obtain ⟨hok, hx⟩ := h
  rw [runSets_append, runSets_allOk pre s hok]
  have hx' : (recordAll s (okEvents pre)).answerAt 0 x = .err c := by
    rw [answerAt_recordAll]; simpa using hx
  simp only [runSets, hx', LineSet.event, recordAll_append, recordAll_cons, recordAll_nil]

/-- Every sequence ends in one of these two ways. -/
theorem allOk_or_failsAt (xs : List LineSet) (s : State) :
    s.AllOk xs ∨ ∃ pre x post c, xs = pre ++ x :: post ∧ s.FailsAt pre x c := by
  induction xs generalizing s with
  | nil => exact .inl (allOk_nil s)
  | cons x xs ih =>
    cases h0 : s.answerAt 0 x with
    | err c => exact .inr ⟨[], x, xs, c, rfl, allOk_nil s, h0⟩
    | ok =>
      rcases ih (s.record ⟨x.line, x.level, .ok⟩) with h | ⟨pre, y, post, c, rfl, hok, hy⟩
      · exact .inl ((allOk_cons s x xs _).2 ⟨h0, h⟩)
      · refine .inr ⟨x :: pre, y, post, c, rfl, (allOk_cons s x pre _).2 ⟨h0, hok⟩, ?_⟩
        rw [answerAt_record] at hy
        exact hy

/-- A sequence that ends well had every set answered ok, and leaves them all recorded. -/
theorem runSets_done (xs : List LineSet) (s t : State) (h : runSets xs s = .done t) :
    s.AllOk xs ∧ t = recordAll s (okEvents xs) := by
  rcases allOk_or_failsAt xs s with hok | ⟨pre, x, post, c, rfl, hf⟩
  · rw [runSets_allOk xs s hok] at h
    exact ⟨hok, (Ran.done.inj h).symm⟩
  · rw [runSets_failsAt pre x post s c hf] at h
    cases h

/-- A sequence that fails does so at its first set not answered ok. -/
theorem runSets_failed (xs : List LineSet) (s t : State) (l : Line) (c : Cause)
    (h : runSets xs s = .failed l c t) :
    ∃ pre x post, xs = pre ++ x :: post ∧ s.FailsAt pre x c ∧ l = x.line ∧
      t = recordAll s (okEvents pre ++ [⟨x.line, x.level, .err c⟩]) := by
  rcases allOk_or_failsAt xs s with hok | ⟨pre, x, post, c', rfl, hf⟩
  · rw [runSets_allOk xs s hok] at h
    cases h
  · rw [runSets_failsAt pre x post s c' hf] at h
    obtain ⟨rfl, rfl, rfl⟩ := Ran.failed.inj h
    exact ⟨pre, x, post, rfl, hf, rfl, rfl⟩

/-- What a command made of line sets leaves: all of them, or those up to the first that fails. -/
theorem perform_cases (xs : List LineSet) (s : State) :
    (s.AllOk xs ∧ s.perform xs = (recordAll s (okEvents xs)).returnOk) ∨
      ∃ pre x post c, xs = pre ++ x :: post ∧ s.FailsAt pre x c ∧
        s.perform xs =
          (recordAll s (okEvents pre ++ [⟨x.line, x.level, .err c⟩])).raise (.lineError x.line c) := by
  rcases allOk_or_failsAt xs s with hok | ⟨pre, x, post, c, rfl, hf⟩
  · exact .inl ⟨hok, by simp [State.perform, runSets_allOk xs s hok]⟩
  · exact .inr ⟨pre, x, post, c, rfl, hf, by simp [State.perform, runSets_failsAt pre x post s c hf]⟩

end Sys2Proof.Laws
end

