-- ==== Sys2Proof/Laws/Commands.lean ====
section
/-! SUPPORT. Everything a command can do, said once: it returns Ok after all its line sets, with its register
effect, or ends at the first failing set, without it. -/

namespace Sys2Proof.Laws

open Sys2Proof Sys2Proof.Machine

/-- The registers a command that returns Ok writes, computed from the state it started in (R70 to R75, R82). -/
def registerEffect (i : Instr) (s t : State) : State :=
  match i with
  | .enterDot => t
  | .enterCtrl => t
  | .shift _ => t
  | .latch => t
  | .setBrt b => t.writeCw0 (insertField s.cw0 0 4 b)
  | .setCur l => t.writeCw0 (insertField s.cw0 4 2 ((codeOfLevel s.peakCode l).setWidth 8))
  | .setWake v => t.writeCw0 (insertField s.cw0 6 1 ((wakeBit v).setWidth 8))
  | .setFan v => t.writeCw1 (insertField s.cw1 0 1 ((fanBit v).setWidth 8))
  | .setPre v => t.writeCw1 (insertField s.cw1 1 1 ((prescalerBit s.prescalerDiv8 v).setWidth 8))
  | .push0 => t
  | .push1 => t.writeDom (dataOut s.cw1)

/-- The state in which a command returns Ok. -/
def okState (i : Instr) (s : State) : State :=
  (registerEffect i s (recordAll s (okEvents (lineSetsOf s i)))).returnOk

/-- The state in which a command ends at the set `x` that fails after `pre`. -/
def errState (s : State) (pre : List LineSet) (x : LineSet) (c : Cause) : State :=
  (recordAll s (okEvents pre ++ [⟨x.line, x.level, .err c⟩])).raise (.lineError x.line c)

/-- A command whose line sets are all answered ok returns Ok. -/
theorem exec_ok (i : Instr) (s : State) (h : s.AllOk (lineSetsOf s i)) :
    exec i s = .next (okState i s) := by
  cases i <;>
    simp_all [exec, okState, registerEffect, lineSetsOf, execEnterDot, execEnterCtrl, execShift, execLatch,
      execSetBrt, execSetCur, execSetWake, execSetFan, execSetPre, execPush0, execPush1, State.perform,
      runSets_allOk]

/-- A command whose set `x` fails after `pre` ends there. -/
theorem exec_err (i : Instr) (s : State) (pre post : List LineSet) (x : LineSet) (c : Cause)
    (e : lineSetsOf s i = pre ++ x :: post) (h : s.FailsAt pre x c) :
    exec i s = .next (errState s pre x c) := by
  have hr := runSets_failsAt pre x post s c h
  cases i <;>
    simp_all [exec, errState, lineSetsOf, execEnterDot, execEnterCtrl, execShift, execLatch, execPush0, execPush1,
      State.perform]

/-- What a command can do: one of these two things. -/
theorem exec_cases (i : Instr) (s : State) :
    (s.AllOk (lineSetsOf s i) ∧ exec i s = .next (okState i s)) ∨
      ∃ pre x post c, lineSetsOf s i = pre ++ x :: post ∧ s.FailsAt pre x c ∧
        exec i s = .next (errState s pre x c) := by
  rcases allOk_or_failsAt (lineSetsOf s i) s with h | ⟨pre, x, post, c, e, h⟩
  · exact .inl ⟨h, exec_ok i s h⟩
  · exact .inr ⟨pre, x, post, c, e, h, exec_err i s pre post x c e h⟩

/-- The same, from a command's answer. -/
theorem exec_next (i : Instr) (s t : State) (h : exec i s = .next t) :
    (s.AllOk (lineSetsOf s i) ∧ t = okState i s) ∨
      ∃ pre x post c, lineSetsOf s i = pre ++ x :: post ∧ s.FailsAt pre x c ∧ t = errState s pre x c := by
  rcases exec_cases i s with ⟨hok, e⟩ | ⟨pre, x, post, c, e, hf, e'⟩
  · rw [e] at h
    exact .inl ⟨hok, (Host.Outcome.next.inj h).symm⟩
  · rw [e'] at h
    exact .inr ⟨pre, x, post, c, e, hf, (Host.Outcome.next.inj h).symm⟩

/-- Returning Ok and returning an error differ. -/
@[simp] theorem okState_result (i : Instr) (s : State) : (okState i s).result = some .ok := rfl

@[simp] theorem errState_result (s : State) (pre : List LineSet) (x : LineSet) (c : Cause) :
    (errState s pre x c).result = some (.lineError x.line c) := rfl

/-- An Ok answer is the Ok state. -/
theorem exec_next_ok (i : Instr) (s t : State) (h : exec i s = .next t) (hr : t.result = some .ok) :
    s.AllOk (lineSetsOf s i) ∧ t = okState i s := by
  rcases exec_next i s t h with hok | ⟨pre, x, post, c, -, -, rfl⟩
  · exact hok
  · simp at hr

/-- TRACE and the pending answers after a command that returned Ok. -/
@[simp] theorem okState_trace (i : Instr) (s : State) :
    (okState i s).trace = s.trace ++ okEvents (lineSetsOf s i) := by
  cases i <;> simp [okState, registerEffect, recordAll_eq, State.returnOk, State.writeCw0, State.writeCw1,
    State.writeDom]

@[simp] theorem okState_answers (i : Instr) (s : State) :
    (okState i s).answers = s.answers.drop (lineSetsOf s i).length := by
  cases i <;> simp [okState, registerEffect, recordAll_eq, State.returnOk, State.writeCw0, State.writeCw1,
    State.writeDom]

@[simp] theorem okState_lines (i : Instr) (s : State) :
    (okState i s).lines = (okEvents (lineSetsOf s i)).foldl Lines.afterEvent s.lines := by
  cases i <;> simp [okState, registerEffect, recordAll_eq, State.returnOk, State.writeCw0, State.writeCw1,
    State.writeDom]

@[simp] theorem okState_n (i : Instr) (s : State) : (okState i s).n = s.n := by
  cases i <;> simp [okState, registerEffect, recordAll_eq]

@[simp] theorem okState_life (i : Instr) (s : State) : (okState i s).life = s.life := by
  cases i <;> simp [okState, registerEffect, recordAll_eq]

@[simp] theorem okState_requests (i : Instr) (s : State) : (okState i s).requests = s.requests := by
  cases i <;> simp [okState, registerEffect, recordAll_eq]

@[simp] theorem okState_peakCode (i : Instr) (s : State) : (okState i s).peakCode = s.peakCode := by
  cases i <;> simp [okState, registerEffect, recordAll_eq]

@[simp] theorem okState_prescalerDiv8 (i : Instr) (s : State) :
    (okState i s).prescalerDiv8 = s.prescalerDiv8 := by
  cases i <;> simp [okState, registerEffect, recordAll_eq]

@[simp] theorem okState_causes (i : Instr) (s : State) : (okState i s).causes = s.causes := by
  cases i <;> simp [okState, registerEffect, recordAll_eq]

/-- After a command that returned Ok the oracle's answers have moved up by its line sets. -/
theorem okState_answerAt (i : Instr) (s : State) (j : Nat) (x : LineSet) :
    (okState i s).answerAt j x = s.answerAt (j + (lineSetsOf s i).length) x := by
  simp only [State.answerAt, okState_trace, okState_answers, okState_causes, List.getElem?_drop,
    List.length_append, okEvents_length, Nat.add_comm j, Nat.add_assoc]

@[simp] theorem okState_dom (i : Instr) (s : State) :
    (okState i s).dom = if i = .push1 then dataOut s.cw1 else s.dom := by
  cases i <;> simp [okState, registerEffect, recordAll_eq]

/-- After an error only the lines, TRACE, the pending answers and the result differ. -/
theorem errState_eq (s : State) (pre : List LineSet) (x : LineSet) (c : Cause) :
    errState s pre x c =
      { s with
        lines := ((okEvents pre).foldl Lines.afterEvent s.lines).put x.line .unknown
        trace := s.trace ++ okEvents pre ++ [⟨x.line, x.level, .err c⟩]
        answers := s.answers.drop (pre.length + 1)
        result := some (.lineError x.line c) } := by
  simp [errState, recordAll_eq, State.raise, Lines.afterEvent]

end Sys2Proof.Laws
end

