-- ==== Sys2Proof/Laws/Frames.lean ====
section
/-! SUPPORT. What every command leaves unchanged, and what the line sets of the engine commands leave on the
lines (40_transfer_engine.md R61, R68). -/

namespace Sys2Proof.Laws

open Sys2Proof Sys2Proof.Machine

/-- A command leaves N, LIFE, the parameters and the requests. -/
theorem exec_frame (i : Instr) (s t : State) (h : exec i s = .next t) :
    t.n = s.n ∧ t.life = s.life ∧ t.peakCode = s.peakCode ∧ t.prescalerDiv8 = s.prescalerDiv8 ∧
      t.causes = s.causes ∧ t.requests = s.requests := by
  rcases exec_next i s t h with ⟨-, rfl⟩ | ⟨pre, x, post, c, -, -, rfl⟩
  · simp
  · simp [errState_eq]

/-- A command appends events to TRACE, each for one of its line sets, uses up as many answers, and leaves the
lines where these events leave them. -/
theorem exec_events (i : Instr) (s t : State) (h : exec i s = .next t) :
    ∃ es, t.trace = s.trace ++ es ∧ t.answers = s.answers.drop es.length ∧
      (∀ e ∈ es, ∃ x ∈ lineSetsOf s i, e.line = x.line ∧ e.level = x.level) ∧
      t.lines = es.foldl Lines.afterEvent s.lines := by
  rcases exec_next i s t h with ⟨-, rfl⟩ | ⟨pre, x, post, c, e, -, rfl⟩
  · refine ⟨okEvents (lineSetsOf s i), by simp, by simp, ?_, by simp⟩
    intro e he
    obtain ⟨x, hx, rfl⟩ := List.mem_map.1 he
    exact ⟨x, hx, rfl, rfl⟩
  · refine ⟨okEvents pre ++ [⟨x.line, x.level, .err c⟩], by simp [errState_eq], by simp [errState_eq], ?_,
      by simp [errState_eq, Lines.afterEvent]⟩
    intro e' he
    rw [e]
    simp only [List.mem_append, List.mem_singleton] at he
    rcases he with he | rfl
    · obtain ⟨y, hy, rfl⟩ := List.mem_map.1 he
      exact ⟨y, by simp [hy], rfl, rfl⟩
    · exact ⟨x, by simp, rfl, rfl⟩

/-- Events on other lines leave a line's level alone. -/
theorem foldl_afterEvent_of_ne (f : Lines → Level) (l : Line)
    (hf : ∀ ls m v, m ≠ l → f (Lines.put ls m v) = f ls) (es : List Event) (h : ∀ e ∈ es, e.line ≠ l)
    (ls : Lines) : f (es.foldl Lines.afterEvent ls) = f ls := by
  induction es generalizing ls with
  | nil => rfl
  | cons e es ih =>
    rw [List.foldl_cons, ih fun e he => h e (by simp [he])]
    have he := h e (by simp)
    unfold Lines.afterEvent
    split <;> exact hf _ _ _ he

theorem put_data_of_ne (ls : Lines) (l : Line) (v : Level) (h : l ≠ .data) : (ls.put l v).data = ls.data := by
  cases l <;> simp_all [Lines.put]

theorem put_ce_of_ne (ls : Lines) (l : Line) (v : Level) (h : l ≠ .ce) : (ls.put l v).ce = ls.ce := by
  cases l <;> simp_all [Lines.put]

theorem put_rs_of_ne (ls : Lines) (l : Line) (v : Level) (h : l ≠ .rs) : (ls.put l v).rs = ls.rs := by
  cases l <;> simp_all [Lines.put]

theorem driveLevel_bitLevel (b : Bool) : driveLevel (bitLevel b) = if b then Level.high else Level.low := by
  cases b <;> rfl

@[simp] theorem shiftSets_length (b : Byte) : (shiftSets b).length = 24 := rfl

@[simp] theorem enterCtrlSets_length : enterCtrlSets.length = 3 := rfl

@[simp] theorem enterDotSets_length : enterDotSets.length = 3 := rfl

@[simp] theorem latchSets_length : latchSets.length = 2 := rfl

/-- A push is `5 + 24R` line sets (R83). -/
@[simp] theorem pushSets_length (r : Nat) (w : Byte) : (pushSets r w).length = 5 + 24 * r := by
  simp [pushSets]; omega

/-- A shifted byte leaves CLK High and DATA at its bit 0. -/
theorem shiftSets_lines (b : Byte) (ls : Lines) :
    (okEvents (shiftSets b)).foldl Lines.afterEvent ls =
      { ls with clk := .high, data := if b.getLsbD 0 then .high else .low } := by
  rw [← driveLevel_bitLevel]; rfl

theorem enterDotSets_lines (ls : Lines) :
    (okEvents enterDotSets).foldl Lines.afterEvent ls = ⟨ls.data, .high, .low, .low⟩ := rfl

theorem enterCtrlSets_lines (ls : Lines) :
    (okEvents enterCtrlSets).foldl Lines.afterEvent ls = ⟨ls.data, .high, .low, .high⟩ := rfl

theorem latchSets_lines (ls : Lines) :
    (okEvents latchSets).foldl Lines.afterEvent ls = ⟨ls.data, .low, .high, ls.rs⟩ := rfl

/-- Copies of a byte leave the lines where one of them does. -/
theorem copies_lines (r : Nat) (b : Byte) (ls : Lines) :
    (okEvents (List.replicate (r + 1) (shiftSets b)).flatten).foldl Lines.afterEvent ls =
      { ls with clk := .high, data := if b.getLsbD 0 then .high else .low } := by
  induction r generalizing ls with
  | zero => simpa using shiftSets_lines b ls
  | succ r ih => rw [List.replicate_succ, List.flatten_cons, okEvents_append, List.foldl_append,
      shiftSets_lines, ih]

/-- A push of at least one copy leaves the lines idle, with RS High and DATA at bit 0 of the word. -/
theorem pushSets_lines (r : Nat) (w : Byte) (ls : Lines) :
    (okEvents (pushSets (r + 1) w)).foldl Lines.afterEvent ls =
      ⟨if w.getLsbD 0 then .high else .low, .low, .high, .high⟩ := by
  rw [pushSets, okEvents_append, okEvents_append, List.foldl_append, List.foldl_append, copies_lines]
  rfl

/-- Line sets of commands are on the protocol lines only (R2). -/
theorem lineSetsOf_line (s : State) (i : Instr) :
    ∀ x ∈ lineSetsOf s i, x.line = .data ∨ x.line = .clk ∨ x.line = .ce ∨ x.line = .rs := by
  have hs : ∀ b, ∀ x ∈ shiftSets b, x.line = .data ∨ x.line = .clk ∨ x.line = .ce ∨ x.line = .rs := by
    intro b x hx
    obtain ⟨k, -, hk⟩ := List.mem_flatMap.1 hx
    simp only [bitSets, List.mem_cons, List.not_mem_nil, or_false] at hk
    rcases hk with rfl | rfl | rfl <;> simp
  have hp : ∀ r b, ∀ x ∈ pushSets r b,
      x.line = .data ∨ x.line = .clk ∨ x.line = .ce ∨ x.line = .rs := by
    intro r b x hx
    simp only [pushSets, enterCtrlSets, latchSets, List.mem_append, List.mem_flatten,
      List.mem_replicate] at hx
    rcases hx with (hx | ⟨l, ⟨-, rfl⟩, hx⟩) | hx
    · simp at hx; rcases hx with rfl | rfl | rfl <;> simp
    · exact hs _ _ hx
    · simp at hx; rcases hx with rfl | rfl <;> simp
  cases i <;> simp only [lineSetsOf]
  case enterDot => decide
  case enterCtrl => decide
  case shift b => exact hs b
  case latch => decide
  case push0 => exact hp _ _
  case push1 => exact hp _ _
  all_goals simp

end Sys2Proof.Laws
end

