-- ==== Sys2Proof/Laws/Host.lean ====
section
/-! SUPPORT. What follows a command's result (30_encoding.md R56, 70_reset_and_hazards.md R105), and what a step
can do. -/

namespace Sys2Proof.Laws

open Sys2Proof Sys2Proof.Machine

/-- Settling changes the requests and LIFE, and nothing else. -/
theorem settle_frame (t : State) :
    t.settle = { t with requests := t.settle.requests, life := t.settle.life } := by
  unfold State.settle
  split
  · rename_i op _ _ _
    split
    · split
      · rfl
      · cases op <;> rfl
    · rfl
  · rfl

@[simp] theorem settle_result (t : State) : t.settle.result = t.result := by rw [settle_frame]
@[simp] theorem settle_lines (t : State) : t.settle.lines = t.lines := by rw [settle_frame]
@[simp] theorem settle_cw0 (t : State) : t.settle.cw0 = t.cw0 := by rw [settle_frame]
@[simp] theorem settle_cw1 (t : State) : t.settle.cw1 = t.cw1 := by rw [settle_frame]
@[simp] theorem settle_dom (t : State) : t.settle.dom = t.dom := by rw [settle_frame]
@[simp] theorem settle_trace (t : State) : t.settle.trace = t.trace := by rw [settle_frame]
@[simp] theorem settle_n (t : State) : t.settle.n = t.n := by rw [settle_frame]
@[simp] theorem settle_peakCode (t : State) : t.settle.peakCode = t.peakCode := by rw [settle_frame]
@[simp] theorem settle_prescalerDiv8 (t : State) : t.settle.prescalerDiv8 = t.prescalerDiv8 := by
  rw [settle_frame]
@[simp] theorem settle_causes (t : State) : t.settle.causes = t.causes := by rw [settle_frame]
@[simp] theorem settle_answers (t : State) : t.settle.answers = t.answers := by rw [settle_frame]

/-- A word's request is done with its command. -/
theorem settle_word (t : State) (w : Word) (qs : List Request) (h : t.requests = .word w :: qs) :
    t.settle = { t with requests := qs } := by
  simp [State.settle, h, State.dropRequest, State.withRequests]

/-- After an error a pseudo-operation is dropped. -/
theorem settle_error (t : State) (op : PseudoOp) (k : Nat) (qs : List Request)
    (h : t.requests = .pseudo op k :: qs) (hr : t.result ≠ some .ok) :
    t.settle = { t with requests := qs } := by
  simp [State.settle, h, hr, State.dropRequest, State.withRequests]

/-- After Ok the next command of a pseudo-operation follows. -/
theorem settle_more (t : State) (op : PseudoOp) (k : Nat) (qs : List Request)
    (h : t.requests = .pseudo op k :: qs) (hr : t.result = some .ok)
    (hk : k + 1 < (expand t.n op).length) :
    t.settle = { t with requests := .pseudo op (k + 1) :: qs } := by
  simp [State.settle, h, hr, hk, State.withRequests]

/-- After Ok of its last command a pseudo-operation is done; `begin` then makes the block Active. -/
theorem settle_last (t : State) (op : PseudoOp) (k : Nat) (qs : List Request)
    (h : t.requests = .pseudo op k :: qs) (hr : t.result = some .ok)
    (hk : ¬k + 1 < (expand t.n op).length) :
    t.settle = { t with requests := qs, life := if op = .beginInit then .active else t.life } := by
  cases op <;> simp [State.settle, h, hr, hk, State.finish, State.dropRequest, State.withRequests, State.activate]

/-- Every command answers a next state. -/
theorem exec_answers (i : Instr) (s : State) : ∃ t, exec i s = .next t := by
  rcases exec_cases i s with ⟨-, h⟩ | ⟨_, _, _, _, -, -, h⟩ <;> exact ⟨_, h⟩

/-- Running a list of commands runs its first, then the others. -/
theorem runCommands_cons (i : Instr) (is : List Instr) (s t : State) (h : exec i s = .next t) :
    runCommands (i :: is) s = runCommands is t := by
  simp [runCommands, h]

/-- What a step can do: nothing to take, an illegal word, or a command. -/
theorem step_cases (s t : State) (h : step s = .next t) :
    (s.fetch = .nothing ∧ t = s.dropRequest) ∨
      (∃ w, s.fetch = .illegal w ∧ t = (s.raise (.illegalCommand w)).settle) ∨
      ∃ i u, s.fetch = .command i ∧ exec i s = .next u ∧ t = u.settle := by
  unfold step at h
  split at h
  · rename_i hf; cases h; exact .inl ⟨hf, rfl⟩
  · rename_i w hf; cases h; exact .inr (.inl ⟨w, hf, rfl⟩)
  · rename_i i hf
    obtain ⟨u, hu⟩ := exec_answers i s
    rw [hu] at h
    cases h
    exact .inr (.inr ⟨i, u, hf, hu, rfl⟩)

end Sys2Proof.Laws
end

