-- ==== Sys2Proof/Laws/Display.lean ====
section
/-! SUPPORT. Everything a command can make of what is known of the display (70_reset_and_hazards.md R108 to R112). -/

namespace Sys2Proof.Laws

open Sys2Proof Sys2Proof.Machine

variable (d : Display) (s t : State)

@[simp] theorem spoil_cw0 : (d.spoil t).cw0 = none := rfl
@[simp] theorem spoil_cw1 : (d.spoil t).cw1 = none := rfl
@[simp] theorem spoil_mode : (d.spoil t).mode = none := rfl
@[simp] theorem spoil_inStep : (d.spoil t).inStep = d.inStep := rfl
@[simp] theorem spoil_ready : (d.spoil t).ready = false := rfl
@[simp] theorem spoil_repairing : (d.spoil t).repairing = d.goesOn t := rfl

@[simp] theorem lose_cw0 : (Display.lose t).cw0 = none := rfl
@[simp] theorem lose_cw1 : (Display.lose t).cw1 = none := rfl
@[simp] theorem lose_mode : (Display.lose t).mode = none := rfl
@[simp] theorem lose_inStep : (Display.lose t).inStep = false := rfl
@[simp] theorem lose_ready : (Display.lose t).ready = false := rfl
@[simp] theorem lose_repairing : (Display.lose t).repairing = false := rfl

@[simp] theorem takeCw1_cw0 (w : Byte) : (d.takeCw1 w).cw0 = d.cw0 := rfl
@[simp] theorem takeCw1_cw1 (w : Byte) : (d.takeCw1 w).cw1 = some w := rfl
@[simp] theorem takeCw1_mode (w : Byte) : (d.takeCw1 w).mode = some (dataOut w) := rfl
@[simp] theorem takeCw1_inStep (w : Byte) : (d.takeCw1 w).inStep = true := rfl
@[simp] theorem takeCw1_ready (w : Byte) : (d.takeCw1 w).ready = d.ready := rfl
@[simp] theorem takeCw1_stage (w : Byte) : (d.takeCw1 w).stage = d.stage := rfl
@[simp] theorem takeCw1_repairing (w : Byte) : (d.takeCw1 w).repairing = d.repairing := rfl

/-- Every device then holds the pushed word. -/
@[simp] theorem takeCw0_cw0 (w : Byte) : (d.takeCw0 w).cw0 = some w := by
  unfold Display.takeCw0; split
  · assumption
  · split <;> rfl

@[simp] theorem takeCw0_inStep (w : Byte) : (d.takeCw0 w).inStep = d.inStep := by
  unfold Display.takeCw0; split <;> [rfl; (split <;> rfl)]
@[simp] theorem takeCw0_ready (w : Byte) : (d.takeCw0 w).ready = d.ready := by
  unfold Display.takeCw0; split <;> [rfl; (split <;> rfl)]
@[simp] theorem takeCw0_stage (w : Byte) : (d.takeCw0 w).stage = d.stage := by
  unfold Display.takeCw0; split <;> [rfl; (split <;> rfl)]
@[simp] theorem takeCw0_repairing (w : Byte) : (d.takeCw0 w).repairing = d.repairing := by
  unfold Display.takeCw0; split <;> [rfl; (split <;> rfl)]

/-- Pushing the word held already changes nothing (R34). -/
theorem takeCw0_of_held (w : Byte) (h : d.cw0 = some w) : d.takeCw0 w = d := if_pos h

@[simp] theorem takeCw0_takeCw0 (w : Byte) : (d.takeCw0 w).takeCw0 w = d.takeCw0 w :=
  takeCw0_of_held _ w (takeCw0_cw0 d w)

@[simp] theorem takeCw1_takeCw1 (w : Byte) : (d.takeCw1 w).takeCw1 w = d.takeCw1 w := rfl

/-- What a command can make of what is known. Nothing of the configuration is known any more, a `begin` goes on only
if the command returned Ok, and after a `PUSH1` that DOM matches the chain's mode is not known either. Or the command
was an encoder command or returned Ok, and it changes nothing, or only the stage, or is a push that every device
takes. -/
theorem afterCommand_cases (i : Instr) :
    ((d.afterCommand i s t).cw0 = none ∧ (d.afterCommand i s t).cw1 = none ∧ (d.afterCommand i s t).mode = none ∧
        (d.afterCommand i s t).ready = false ∧ ((d.afterCommand i s t).repairing = true → d.goesOn t = true) ∧
        (i = .push1 → (d.afterCommand i s t).inStep = false)) ∨
      (((∃ f, fieldWritten i = some f) ∨ t.result = some .ok) ∧
        (d.afterCommand i s t = d ∨ (∃ g, d.afterCommand i s t = { d with stage := g }) ∨
          (d.ready = true ∧ s.life = .active ∧
            ((i = .push0 ∧ d.afterCommand i s t = d.takeCw0 s.cw0) ∨
              (i = .push1 ∧ d.afterCommand i s t = d.takeCw1 s.cw1))))) := by
  cases i <;>
    simp only [Display.afterCommand, Display.afterEnter, Display.afterShift, Display.afterLatch,
      Display.afterSetter, Display.afterPush0, Display.afterPush1, fieldWritten] <;>
    (repeat' split) <;> simp_all

end Sys2Proof.Laws
end

