-- ==== Sys2Proof/Laws/PerInstr.lean ====
section
/-! SUPPORT. One lemma per command: its encoded word is selected by its own row of the opcode table, and the row
fixes every bit of it but the operand's (30_encoding.md R44 to R46). -/

namespace Sys2Proof.Laws

open Sys2Proof

/-- The row of the table that bears the command's mnemonic. -/
def rowOf (i : Instr) : List OpcodeRow := opcodeTable.filter fun r => r.mnemonic == mnemonicOf i

namespace EncodedRow

/-- One row bears the command's mnemonic; it selects the encoded word, and outside the row's mask the word is its
operand byte. -/
def Statement (i : Instr) : Prop :=
  ∃ r, rowOf i = [r] ∧ r.selects (encode i) = true ∧
    encode i &&& ~~~r.mask = (0x00#8 ++ operandByte i) &&& ~~~r.mask

theorem enterDot : Statement .enterDot := ⟨⟨.enterDot, 0x0100, 0xFFFF⟩, rfl, rfl, rfl⟩

theorem enterCtrl : Statement .enterCtrl := ⟨⟨.enterCtrl, 0x0200, 0xFFFF⟩, rfl, rfl, rfl⟩

theorem shift (b : Byte) : Statement (.shift b) :=
  ⟨⟨.shift, 0x0300, 0xFF00⟩, rfl, by revert b; decide, by revert b; decide⟩

theorem latch : Statement .latch := ⟨⟨.latch, 0x0400, 0xFFFF⟩, rfl, rfl, rfl⟩

theorem setBrt (b : Byte) : Statement (.setBrt b) :=
  ⟨⟨.setBrt, 0x1000, 0xFF00⟩, rfl, by revert b; decide, by revert b; decide⟩

theorem setCur (l : PeakLevel) : Statement (.setCur l) :=
  ⟨⟨.setCur, 0x1100, 0xFFFC⟩, rfl, by cases l <;> rfl, by cases l <;> rfl⟩

theorem setWake (v : WakeMode) : Statement (.setWake v) :=
  ⟨⟨.setWake, 0x1200, 0xFFFE⟩, rfl, by cases v <;> rfl, by cases v <;> rfl⟩

theorem setFan (v : FanMode) : Statement (.setFan v) :=
  ⟨⟨.setFan, 0x1300, 0xFFFE⟩, rfl, by cases v <;> rfl, by cases v <;> rfl⟩

theorem setPre (v : PrescalerMode) : Statement (.setPre v) :=
  ⟨⟨.setPre, 0x1400, 0xFFFE⟩, rfl, by cases v <;> rfl, by cases v <;> rfl⟩

theorem push0 : Statement .push0 := ⟨⟨.push0, 0x2000, 0xFFFF⟩, rfl, rfl, rfl⟩

theorem push1 : Statement .push1 := ⟨⟨.push1, 0x2100, 0xFFFF⟩, rfl, rfl, rfl⟩

end EncodedRow

end Sys2Proof.Laws
end

