-- ==== Sys2Proof/Laws/Wire.lean ====
section
/-! SUPPORT. How the line sets of well-formed transactions and pushes are read (20_memory.md R39 to R42): each has
exactly one reading. -/

namespace Sys2Proof.Laws

open Sys2Proof Sys2Proof.Machine

/-- Reading one list of events after another. -/
theorem readAll_append (r : Reading) (es fs : List Event) :
    r.readAll (es ++ fs) = (r.readAll es).flatMap fun t => t.readAll fs := by
  induction es generalizing r with
  | nil => simp [Reading.readAll]
  | cons e es ih => simp [Reading.readAll, ih, List.flatMap_assoc]

/-- Every reading of a list of events holds the lines these events leave. -/
theorem readAll_lines (es : List Event) (r t : Reading) (h : t ∈ r.readAll es) :
    t.lines = es.foldl Lines.afterEvent r.lines := by
  induction es generalizing r with
  | nil => simp only [Reading.readAll, List.mem_singleton] at h; subst h; rfl
  | cons e es ih =>
    simp only [Reading.readAll, List.mem_flatMap] at h
    obtain ⟨u, hu, ht⟩ := h
    rw [ih u ht, List.foldl_cons]
    obtain ⟨v, -, rfl⟩ := List.mem_map.1 hu
    rfl

/-- `ENTER_DOT` with CE High, DATA known and no frame open opens a regular dot frame. -/
theorem readAll_enterDot (r : Reading) (hf : r.frame = none) (hc : r.lines.ce = .high)
    (hd : r.lines.data ≠ .unknown) :
    r.readAll (okEvents enterDotSets) =
      [⟨⟨r.lines.data, .high, .low, .low⟩, some ⟨.dot, [], false⟩, r.latched, r.loose⟩] := by
  obtain ⟨⟨d, k, c, s⟩, f, l, o⟩ := r
  obtain rfl : f = none := hf
  obtain rfl : c = .high := hc
  cases d with
  | unknown => exact absurd rfl hd
  | low => rfl
  | high => rfl

/-- `ENTER_CTRL` with CE High, DATA known and no frame open opens a regular control frame. -/
theorem readAll_enterCtrl (r : Reading) (hf : r.frame = none) (hc : r.lines.ce = .high)
    (hd : r.lines.data ≠ .unknown) :
    r.readAll (okEvents enterCtrlSets) =
      [⟨⟨r.lines.data, .high, .low, .high⟩, some ⟨.control, [], false⟩, r.latched, r.loose⟩] := by
  obtain ⟨⟨d, k, c, s⟩, f, l, o⟩ := r
  obtain rfl : f = none := hf
  obtain rfl : c = .high := hc
  cases d with
  | unknown => exact absurd rfl hd
  | low => rfl
  | high => rfl

/-- The three sets of one bit sample it once (R40, R50). -/
theorem readAll_bitSets (r : Reading) (f : Frame) (hf : r.frame = some f) (b : Byte) (i : Nat) :
    r.readAll (okEvents (bitSets b i)) =
      [⟨{ r.lines with clk := .high, data := if b.getLsbD i then .high else .low },
        some { f with bits := f.bits ++ [if b.getLsbD i then .one else .zero] }, r.latched, r.loose⟩] := by
  obtain ⟨⟨d, k, c, s⟩, fr, l, o⟩ := r
  obtain rfl : fr = some f := hf
  obtain ⟨t, bs, irr⟩ := f
  cases hb : b.getLsbD i <;>
    simp [bitSets, bitLevel, hb, Reading.readAll, Reading.after, Reading.clkReadings, Reading.dataReadings,
      Reading.sampling, Lines.afterEvent, Lines.put, driveLevel, sampleOf]

/-- `SHIFT b` inside an open frame appends the eight bits of `b`, most significant bit first (R29). -/
theorem readAll_shift (r : Reading) (f : Frame) (hf : r.frame = some f) (b : Byte) :
    r.readAll (okEvents (shiftSets b)) =
      [⟨{ r.lines with clk := .high, data := if b.getLsbD 0 then .high else .low },
        some { f with bits := f.bits ++ samplesOfByte b }, r.latched, r.loose⟩] := by
  have key : ∀ (is : List Nat) (i : Nat) (r : Reading) (f : Frame), r.frame = some f →
      r.readAll (okEvents ((i :: is).flatMap (bitSets b))) =
        [⟨{ r.lines with clk := .high, data := if b.getLsbD ((i :: is).getLast (by simp)) then .high else .low },
          some { f with bits := f.bits ++ (i :: is).map fun k => if b.getLsbD k then .one else .zero },
          r.latched, r.loose⟩] := by
    intro is
    induction is with
    | nil =>
      intro i r f hf
      rw [List.flatMap_cons, List.flatMap_nil, List.append_nil, readAll_bitSets r f hf b i]
      rfl
    | cons j is ih =>
      intro i r f hf
      rw [List.flatMap_cons, okEvents_append, readAll_append, readAll_bitSets r f hf b i]
      simp only [List.flatMap_cons, List.flatMap_nil, List.append_nil] at ih ⊢
      rw [ih j _ _ rfl]
      simp [List.getLast_cons]
  exact key [6, 5, 4, 3, 2, 1, 0] 7 r f hf

/-- `LATCH` with a frame open latches it (R39, R42). -/
theorem readAll_latch (r : Reading) (f : Frame) (hf : r.frame = some f) :
    r.readAll (okEvents latchSets) =
      [⟨⟨r.lines.data, .low, .high, r.lines.rs⟩, none, r.latched ++ [f], r.loose⟩] := by
  obtain ⟨⟨d, k, c, s⟩, fr, l, o⟩ := r
  obtain rfl : fr = some f := hf
  rfl

/-- Copies of a byte inside an open frame. -/
theorem readAll_copies (n : Nat) (b : Byte) (r : Reading) (f : Frame) (hf : r.frame = some f) :
    ∃ ls, r.readAll (okEvents (List.replicate n (shiftSets b)).flatten) =
      [⟨ls, some { f with bits := f.bits ++ (List.replicate n b).flatMap samplesOfByte }, r.latched, r.loose⟩] := by
  induction n generalizing r f with
  | zero => exact ⟨r.lines, by simp [Reading.readAll, ← hf]⟩
  | succ n ih =>
    rw [List.replicate_succ, List.flatten_cons, okEvents_append, readAll_append, readAll_shift r f hf b]
    simp only [List.flatMap_cons, List.flatMap_nil, List.append_nil]
    obtain ⟨ls, h⟩ := ih ⟨{ r.lines with clk := .high, data := if b.getLsbD 0 then .high else .low },
      some { f with bits := f.bits ++ samplesOfByte b }, r.latched, r.loose⟩ _ rfl
    exact ⟨ls, by rw [h]; simp [List.replicate_succ]⟩

/-- A push with CE High, DATA known and no frame open latches one control frame of its copies (R80). -/
theorem readAll_push (n : Nat) (b : Byte) (r : Reading) (hf : r.frame = none) (hc : r.lines.ce = .high)
    (hd : r.lines.data ≠ .unknown) :
    r.readAll (okEvents (pushSets n b)) =
      [⟨(okEvents (pushSets n b)).foldl Lines.afterEvent r.lines, none,
        r.latched ++ [frameOf .control (List.replicate n b)], r.loose⟩] := by
  have h1 := readAll_enterCtrl r hf hc hd
  obtain ⟨ls, h2⟩ := readAll_copies n b
    ⟨⟨r.lines.data, .high, .low, .high⟩, some ⟨.control, [], false⟩, r.latched, r.loose⟩ _ rfl
  have h : r.readAll (okEvents (pushSets n b)) =
      [⟨⟨ls.data, .low, .high, ls.rs⟩, none, r.latched ++ [frameOf .control (List.replicate n b)], r.loose⟩] := by
    rw [pushSets, okEvents_append, okEvents_append, readAll_append, readAll_append, h1]
    simp only [List.flatMap_cons, List.flatMap_nil, List.append_nil]
    rw [h2]
    simp only [List.flatMap_cons, List.flatMap_nil, List.append_nil]
    rw [readAll_latch _ _ rfl]
    simp [frameOf]
  have hl := readAll_lines (okEvents (pushSets n b)) r _ (by rw [h]; exact List.mem_singleton_self _)
  rw [h, ← hl]

/-- The eight samples of a byte are read back as the byte (R41). -/
theorem byteOfSamples_of_byte (b : Byte) (rest : List Sample) :
    bytesOfSamples (samplesOfByte b ++ rest) =
      match bytesOfSamples rest with
      | some bs => some (b :: bs)
      | none => none := by
  have hbit : ∀ c : Bool, (if c then Sample.one else Sample.zero).bit = some c := by intro c; cases c <;> rfl
  have hb : byteOfBits (b.getLsbD 7) (b.getLsbD 6) (b.getLsbD 5) (b.getLsbD 4) (b.getLsbD 3) (b.getLsbD 2)
      (b.getLsbD 1) (b.getLsbD 0) = b := by
    revert b; decide
  simp only [samplesOfByte, List.map_cons, List.map_nil, List.cons_append, List.nil_append, bytesOfSamples,
    byteOfSamples, hbit, hb]
  cases bytesOfSamples rest <;> rfl

/-- The bits of a list of bytes are read back as the bytes (R41). -/
theorem bytesOfSamples_of_bytes (bs : List Byte) : bytesOfSamples (bs.flatMap samplesOfByte) = some bs := by
  induction bs with
  | nil => rfl
  | cons b bs ih => rw [List.flatMap_cons, byteOfSamples_of_byte, ih]

/-- A regular dot or control frame delivers its bytes (R42). -/
theorem frameOf_payload (t : Target) (ht : t = .dot ∨ t = .control) (bs : List Byte) :
    (frameOf t bs).payload = some bs := by
  rcases ht with rfl | rfl <;> simp [frameOf, Frame.payload, bytesOfSamples_of_bytes]

end Sys2Proof.Laws
end

