-- ==== Sys2Proof/Tests/Slice0.lean ====
section
/-! SUPPORT. Tests against the vectors of spec/95_test_vectors.md (cited by number) and, for each statement with
hypotheses, a witness that they can all hold. -/

namespace Sys2Proof.Tests

open Sys2Proof Sys2Proof.Machine

/-! ## Helpers -/

/-- Error types without bound, for every line. -/
def anyCause : CauseTypes := ⟨⟨none⟩, ⟨none⟩, ⟨none⟩, ⟨none⟩, ⟨none⟩, ⟨none⟩, ⟨none⟩⟩

/-- The idle state of 95_test_vectors.md 2.1, with the default parameters, `n` characters, and an environment that
answers the next line sets so. -/
def idle (n : Nat) (answers : List Answer) : State where
  lines := ⟨.low, .low, .high, .low⟩
  cw0 := 0x7C
  cw1 := 0x80
  dom := .serial
  life := .active
  trace := []
  n := n
  peakCode := PeakCode.exampleTable
  prescalerDiv8 := 1
  causes := anyCause
  answers := answers
  requests := []
  result := none

/-- `k` answers ok. -/
def oks (k : Nat) : List Answer := List.replicate k .ok

/-- `k` answers ok, then one error. -/
def failAfter (k : Nat) : List Answer := oks k ++ [.err ⟨7⟩]

/-- An idle block of 4 characters whose line sets do not fail. -/
def good : State := idle 4 (oks 150)

/-- The state an outcome goes on in. -/
def after : Outcome → State
  | .next t => t
  | .fault _ => good
  | .refused _ => good

/-- The reading of an idle wire. -/
def idleWire : Reading := ⟨good.lines, none, [], none⟩

/-- The reading inside a dot frame just opened. -/
def inFrame : Reading := ⟨⟨.low, .high, .low, .low⟩, some ⟨.dot, [], false⟩, [], none⟩

/-- A block inside that frame. -/
def shifting (answers : List Answer) : State := { idle 4 answers with lines := inFrame.lines }

/-! ## Decoding: words written out bit by bit from the opcode map of 30_encoding.md -/

theorem test_decode_engine :
    decode 0b0000000100000000 = .ok .enterDot ∧ decode 0b0000001000000000 = .ok .enterCtrl ∧
    decode 0b0000001110100101 = .ok (.shift 0xA5) ∧ decode 0b0000010000000000 = .ok .latch := by decide

theorem test_decode_encoder :
    decode 0b0001000011111111 = .ok (.setBrt 255) ∧ decode 0b0001000100000011 = .ok (.setCur .ma128) ∧
    decode 0b0001001000000001 = .ok (.setWake .wake) ∧ decode 0b0001001100000001 = .ok (.setFan .simultaneous) ∧
    decode 0b0001010000000001 = .ok (.setPre .div8) := by decide

theorem test_decode_push :
    decode 0b0010000000000000 = .ok .push0 ∧ decode 0b0010000100000000 = .ok .push1 := by decide

/-- 95_test_vectors.md 2.2: the illegal words, by their reason. -/
theorem test_decode_rejects :
    decode 0x0000 = .error (.unassignedOpcode 0x00) ∧ decode 0x0500 = .error (.unassignedOpcode 0x05) ∧
    decode 0x1500 = .error (.unassignedOpcode 0x15) ∧ decode 0x2200 = .error (.unassignedOpcode 0x22) ∧
    decode 0xFFFF = .error (.unassignedOpcode 0xFF) ∧ decode 0x0101 = .error (.reservedOperandBit 0x01 0x01) ∧
    decode 0x0480 = .error (.reservedOperandBit 0x04 0x80) ∧
    decode 0x1104 = .error (.reservedOperandBit 0x11 0x04) ∧
    decode 0x1202 = .error (.reservedOperandBit 0x12 0x02) ∧
    decode 0x14FF = .error (.reservedOperandBit 0x14 0xFF) ∧
    decode 0x2001 = .error (.reservedOperandBit 0x20 0x01) := by decide

theorem test_encode :
    [Instr.enterDot, .enterCtrl, .shift 0x7F, .latch, .setBrt 0x1F, .setCur .ma128, .setWake .sleep,
      .setFan .simultaneous, .setPre .div8, .push0, .push1].map encode =
    [0x0100, 0x0200, 0x037F, 0x0400, 0x101F, 0x1103, 0x1200, 0x1301, 0x1401, 0x2000, 0x2100] := by decide

theorem test_decodeTableWord :
    decodeTableWord 16 0x0341 = some (.shift 0x41) ∧ decodeTableWord 16 0x1104 = none := by decide

theorem test_step_runs_fetch_word :
    (after (step (good.withFetchWord 16 0x1005))).cw0 = 0x75 := by decide

/-! ## WellFormed: the checks refuse ill-formed terms -/

theorem test_peakCode_wf :
    PeakCode.exampleTable.wf = true ∧ PeakCode.wf ⟨0, 1, 2, 2⟩ = false := by decide

theorem test_constructArgs_wf :
    ConstructArgs.wf ⟨4, PeakCode.exampleTable, 1, false, false, false, anyCause⟩ = true ∧
    ConstructArgs.wf ⟨3, PeakCode.exampleTable, 1, false, false, false, anyCause⟩ = false ∧
    ConstructArgs.wf ⟨4, ⟨0, 0, 1, 2⟩, 1, false, false, false, anyCause⟩ = false := by decide

theorem test_asmLine_wf :
    AsmLine.wf ⟨.shift, some (.number 255)⟩ = true ∧ AsmLine.wf ⟨.shift, some (.number 256)⟩ = false ∧
    AsmLine.wf ⟨.setBrt, some (.number 256)⟩ = false ∧ AsmLine.wf ⟨.setBrt, some (.name .wake)⟩ = false ∧
    AsmLine.wf ⟨.setCur, some (.number 3)⟩ = true ∧ AsmLine.wf ⟨.setCur, some (.number 4)⟩ = false ∧
    AsmLine.wf ⟨.setCur, some (.name .div8)⟩ = false ∧ AsmLine.wf ⟨.setWake, none⟩ = false ∧
    AsmLine.wf ⟨.setWake, some (.number 1)⟩ = false ∧ AsmLine.wf ⟨.setFan, some (.name .wake)⟩ = false ∧
    AsmLine.wf ⟨.setPre, some (.name .sleep)⟩ = false ∧ AsmLine.wf ⟨.latch, some (.number 0)⟩ = false ∧
    AsmLine.wf ⟨.enterDot, some (.number 0)⟩ = false ∧ AsmLine.wf ⟨.enterCtrl, some (.number 0)⟩ = false ∧
    AsmLine.wf ⟨.push0, some (.number 0)⟩ = false ∧ AsmLine.wf ⟨.push1, some (.number 0)⟩ = false := by decide

/-- 95_test_vectors.md P2, as text. -/
theorem test_assembleText :
    assembleText ["; brightness", "SETBRT 0x1F  ; CW0 <- 0x7F", "PUSH0", "", "SETWAKE sleep", "SETCUR 12.8mA"] =
      some [0x101F, 0x2000, 0x1200, 0x1103] := by decide

/-! ## One command each -/

/-- T1. -/
theorem test_enterDot :
    (after (exec .enterDot good)).trace = [⟨.clk, .high, .ok⟩, ⟨.rs, .low, .ok⟩, ⟨.ce, .low, .ok⟩] ∧
    (after (exec .enterDot good)).lines = ⟨.low, .high, .low, .low⟩ := by decide

/-- TE1. -/
theorem test_enterDot_fails :
    (after (exec .enterDot (idle 4 (failAfter 1)))).result = some (.lineError .rs ⟨7⟩) ∧
    (after (exec .enterDot (idle 4 (failAfter 1)))).lines = ⟨.low, .high, .high, .unknown⟩ := by decide

/-- T2. -/
theorem test_enterCtrl :
    (after (exec .enterCtrl good)).trace = [⟨.clk, .high, .ok⟩, ⟨.rs, .high, .ok⟩, ⟨.ce, .low, .ok⟩] ∧
    (after (exec .enterCtrl good)).lines = ⟨.low, .high, .low, .high⟩ := by decide

/-- T4: the DATA sets of `SHIFT 0xA5`. -/
theorem test_shift :
    ((after (exec (.shift 0xA5) good)).trace.filter fun e => e.line == .data).map Event.level =
      [.high, .low, .high, .low, .low, .high, .low, .high] := by decide

/-- TE4. -/
theorem test_shift_fails :
    (after (exec (.shift 0xA5) (shifting (failAfter 4)))).trace =
      [⟨.clk, .low, .ok⟩, ⟨.data, .high, .ok⟩, ⟨.clk, .high, .ok⟩, ⟨.clk, .low, .ok⟩,
        ⟨.data, .low, .err ⟨7⟩⟩] ∧
    (after (exec (.shift 0xA5) (shifting (failAfter 4)))).lines = ⟨.unknown, .low, .low, .low⟩ := by decide

/-- T12. -/
theorem test_latch :
    (after (exec .latch good)).trace = [⟨.ce, .high, .ok⟩, ⟨.clk, .low, .ok⟩] ∧
    (after (exec .latch good)).lines = good.lines := by decide

/-- TE6. -/
theorem test_latch_fails :
    (after (exec .latch (shifting (failAfter 0)))).result = some (.lineError .ce ⟨7⟩) ∧
    (after (exec .latch (shifting (failAfter 0)))).lines = ⟨.low, .high, .unknown, .low⟩ := by decide

/-- 95_test_vectors.md 1.1. -/
theorem test_setBrt :
    (after (exec (.setBrt 16) good)).cw0 = 0x70 ∧ (after (exec (.setBrt 0xA7) good)).cw0 = 0x77 ∧
    (after (exec (.setBrt 255) good)).cw0 = 0x7F := by decide

/-- E1 to E4. -/
theorem test_setCur :
    (after (exec (.setCur .ma40) good)).cw0 = 0x7C ∧ (after (exec (.setCur .ma64) good)).cw0 = 0x5C ∧
    (after (exec (.setCur .ma93) good)).cw0 = 0x4C ∧ (after (exec (.setCur .ma128) good)).cw0 = 0x6C := by decide

/-- E5 to E7. -/
theorem test_setWake :
    (after (exec (.setWake .sleep) good)).cw0 = 0x3C ∧
    (after (exec (.setWake .sleep) { good with cw0 := 0x3C })).cw0 = 0x3C ∧
    (after (exec (.setWake .wake) { good with cw0 := 0x3C })).cw0 = 0x7C := by decide

/-- E8, E9. -/
theorem test_setFan :
    (after (exec (.setFan .simultaneous) good)).cw1 = 0x81 ∧
    (after (exec (.setFan .simultaneous) good)).dom = .serial ∧
    (after (exec (.setFan .serial) { good with cw1 := 0x83 })).cw1 = 0x82 := by decide

/-- E11, E12, E13, E14. -/
theorem test_setPre :
    (after (exec (.setPre .div8) { good with cw1 := 0x81 })).cw1 = 0x83 ∧
    (after (exec (.setPre .direct) { good with cw1 := 0x82 })).cw1 = 0x80 ∧
    (after (exec (.setPre .div8) { good with prescalerDiv8 := 0, cw1 := 0x82 })).cw1 = 0x80 ∧
    (after (exec (.setPre .direct) { good with prescalerDiv8 := 0 })).cw1 = 0x82 := by decide

/-- P-2 and P-4: the copies. -/
theorem test_push0 :
    (after (exec .push0 (idle 8 (oks 60)))).trace.length = 53 ∧
    (after (exec .push0 (idle 7 (oks 60)))).trace.length = 29 := by decide

/-- P-10: the count is from DOM, not from CW1. -/
theorem test_push0_mirror :
    (after (exec .push0 { idle 8 (oks 60) with cw1 := 0x81 })).trace.length = 53 := by decide

/-- P-7 and P-8: the count of the old mode, then the new mode. -/
theorem test_push1 :
    (after (exec .push1 { idle 8 (oks 60) with cw1 := 0x81 })).trace.length = 53 ∧
    (after (exec .push1 { idle 8 (oks 60) with cw1 := 0x81 })).dom = .simultaneous ∧
    (after (exec .push1 { idle 8 (oks 60) with dom := .simultaneous })).trace.length = 29 ∧
    (after (exec .push1 { idle 8 (oks 60) with dom := .simultaneous })).dom = .serial := by decide

/-- PE2: failing at its last set, the mirror stays. -/
theorem test_push1_fails :
    (after (exec .push1 { idle 8 (failAfter 52) with cw1 := 0x81 })).dom = .serial ∧
    (after (exec .push1 { idle 8 (failAfter 52) with cw1 := 0x81 })).result =
      some (.lineError .clk ⟨7⟩) := by decide

/-! ## Construction (95_test_vectors.md 1.3), codes, reads -/

/-- A chain of `n` characters with the default parameters and all three optional lines. -/
def wired (n : Nat) : ConstructArgs := ⟨n, PeakCode.exampleTable, 1, true, true, true, anyCause⟩

theorem test_construct :
    (after (construct (wired 8) (oks 5))).trace =
      [⟨.data, .low, .ok⟩, ⟨.ce, .high, .ok⟩, ⟨.blank, .high, .ok⟩, ⟨.oscSel, .high, .ok⟩,
        ⟨.reset, .high, .ok⟩] ∧
    (after (construct (wired 8) (oks 5))).cw0 = 0x7C ∧ (after (construct (wired 8) (oks 5))).cw1 = 0x80 := by decide

theorem test_construct_fails :
    construct (wired 8) (failAfter 2) =
      .fault (.constructionFailed .blank ⟨7⟩
        [⟨.data, .low, .ok⟩, ⟨.ce, .high, .ok⟩, ⟨.blank, .high, .err ⟨7⟩⟩]) ∧
    construct (wired 3) [] = .fault (.configRefused 3) ∧ construct (wired 0) [] = .fault (.configRefused 0) :=
  ⟨rfl, rfl, rfl⟩

/-- 60_exceptions.md R87. -/
theorem test_codes :
    [Result.ok, .lineError .ce ⟨0⟩, .pinNotConfigured, .valueTooLong, .illegalCommand 0, .configRefused 3].map
      resultCode = [0, 1, 2, 3, 4, 5] ∧
    [Line.data, .clk, .ce, .rs, .blank, .oscSel, .reset].map lineCode = [0, 1, 2, 3, 4, 5, 6] := by decide

/-! ## The wire -/

/-- T4: the frame read, and its byte. -/
theorem test_wire_frame :
    (idleWire.readAll (runCommands [.enterDot, .shift 0xA5, .latch] good).trace).map Reading.latched =
      [[frameOf .dot [0xA5]]] ∧
    (frameOf .dot [0xA5]).payload = some [0xA5] := by decide

/-- T11 and T12: outside a frame nothing is sampled and nothing is latched. -/
theorem test_wire_outside :
    (idleWire.readAll (after (exec (.shift 0x55) good)).trace).map (fun r => (r.frame, r.latched, r.loose)) =
      [(none, [], some 0)] ∧
    (idleWire.readAll (after (exec .latch good)).trace).map (fun r => (r.frame, r.latched, r.loose)) =
      [(none, [], some 0)] := by
  decide

/-- T14: one frame, its target unspecified. -/
theorem test_wire_target :
    (idleWire.readAll (runCommands [.enterDot, .enterCtrl] good).trace).map (fun r => r.frame.map Frame.target) =
      [some .unspecified] := by decide

/-- TE2: unknown whether a frame opened. -/
theorem test_wire_uncertain :
    (idleWire.readAll (after (exec .enterCtrl (idle 4 (failAfter 2)))).trace).map (fun r => r.frame.isSome) =
      [false, true] := by decide

/-- TE3, TE4, TE5: the bits known to be sampled. -/
theorem test_wire_cut_short :
    (inFrame.readAll (after (exec (.shift 0xA5) (shifting (failAfter 0)))).trace).map
      (fun r => r.frame.map fun f => f.bits.length) = [some 0] ∧
    (inFrame.readAll (after (exec (.shift 0xA5) (shifting (failAfter 4)))).trace).map
      (fun r => r.frame.map Frame.bits) = [some [.one]] ∧
    (inFrame.readAll (after (exec (.shift 0xA5) (shifting (failAfter 23)))).trace).map
      (fun r => r.frame.map Frame.bits) =
      [some [.one, .zero, .one, .zero, .zero, .one, .zero],
        some [.one, .zero, .one, .zero, .zero, .one, .zero, .one]] := by decide

/-- 40_transfer_engine.md R66: the phase. -/
theorem test_phase :
    good.lines.phase = .idle ∧ inFrame.lines.phase = .openDot ∧
    (after (exec .enterCtrl good)).lines.phase = .openControl := by decide

/-! ## The display: what the spec lets one say -/

/-- After a complete `begin` with the reset words, in serial mode. -/
def repairedView : Display := ⟨some 0x7C, some 0x80, some .serial, true, true, .between, false⟩

/-- The view after commands run one after another from a state. -/
def viewAfter (d : Display) (s : State) : List Instr → Display
  | [] => d
  | i :: is => viewAfter (d.afterCommand i s (after (exec i s))) (after (exec i s)) is

/-- R100, R34 and 93 U16: on a chain of 8, sleep is known and stays known when pushed again, and the other word is
not; waking is known too. -/
theorem test_display_sleep :
    viewAfter repairedView (idle 8 (oks 106)) [.setWake .sleep, .push0] =
      ⟨some 0x3C, none, none, true, true, .between, false⟩ ∧
    viewAfter repairedView (idle 8 (oks 106)) [.setWake .sleep, .push0, .push0] =
      ⟨some 0x3C, none, none, true, true, .between, false⟩ ∧
    viewAfter repairedView (idle 8 (oks 106)) [.setWake .sleep, .push0, .setWake .wake, .push0] =
      ⟨some 0x7C, none, none, true, true, .between, false⟩ := by decide

/-- R108 items 1, 2 and 5, R67, R53, 93 U10: T11, T12, the raw control frame of `0x23`, an encoder command inside a
transaction, a dot byte with bit 7, an empty frame. -/
theorem test_display_unspecified :
    [[Instr.shift 0x55], [.latch], [.enterCtrl, .shift 0x23, .latch],
      [.enterDot, .shift 0x01, .setBrt 3, .latch], [.enterDot, .shift 0x80, .latch], [.enterDot, .latch]].map
        (fun is => viewAfter repairedView good is) =
      List.replicate 6 ⟨none, none, none, false, false, .between, false⟩ := by decide

/-- A regular dot transaction leaves the control words; before `begin` a push makes nothing known (R112). -/
theorem test_display_dots_and_before_begin :
    viewAfter repairedView good [.enterDot, .shift 0x7F, .shift 0x41, .latch] = repairedView ∧
    viewAfter (.powerUp true) { good with life := .uninitialized } [.push0] = .powerUp true := by decide

/-- R109, R110: errors outside every frame. `LATCH`'s last set; `PUSH1` at its first and at its last set. -/
theorem test_display_line_errors :
    (viewAfter repairedView (idle 8 (failAfter 28)) [.enterDot, .shift 0x01, .latch]) =
      ⟨none, none, none, true, false, .between, false⟩ ∧
    (viewAfter repairedView (idle 8 (failAfter 0)) [.push1]).inStep = false ∧
    (viewAfter repairedView (idle 8 (failAfter 52)) [.push1]).inStep = false ∧
    (viewAfter repairedView (idle 8 (failAfter 52 ++ oks 53)) [.push1, .push0]).cw0 = none := by decide

/-- R99 item 7, R109: a `begin` issued in a frame that a line error left open repairs what is known; an encoder command
and a `PUSH0` there, and a failed `ENTER_CTRL`, break nothing that it needs, a `PUSH1` there does (R110). -/
theorem test_display_repair :
    ({ Display.powerUp false with stage := .stray } : Display).watchSteps 24
      { idle 4 (oks 543) with
        lines := ⟨.unknown, .unknown, .low, .high⟩, requests := [.pseudo .beginInit 0] } = repairedView ∧
    (viewAfter { repairedView with stage := .stray }
      { idle 8 (oks 53) with lines := ⟨.low, .low, .low, .low⟩ } [.setBrt 3, .push0]).inStep = true ∧
    viewAfter repairedView (idle 8 (failAfter 1)) [.enterCtrl] =
      ⟨none, none, none, true, false, .between, false⟩ ∧
    viewAfter repairedView (idle 8 (failAfter 7)) [.enterCtrl, .shift 0x23] =
      ⟨none, none, none, true, false, .stray, false⟩ ∧
    (viewAfter { repairedView with stage := .stray }
      { idle 8 (oks 53) with lines := ⟨.low, .low, .low, .low⟩ } [.push1]).inStep = false := by decide +kernel

/-- R66, R67: a transaction from idle, and one from CLK High. -/
theorem test_issued_from_idle :
    good.issuesWellFormed [.enterDot, .shift 0x01, .latch, .push0] = true ∧
    ({ good with lines := ⟨.low, .high, .high, .low⟩ } : State).issuesWellFormed [.enterDot, .latch] = false := by
  decide

/-! ## Witnesses: the hypotheses of the statements can hold -/

theorem witness_LegalWordIsItsCommandsWord : decode 0x037F = .ok (.shift 0x7F) := by decide

theorem witness_StepRunsIssuedCommand :
    ({ good with requests := [.word 0x2000] } : State).requests = .word 0x2000 :: [] ∧
    decode 0x2000 = .ok .push0 := by decide

/-- A first command that returns Ok, one that fails, a last one, and `begin`'s last one. -/
theorem witness_PseudoOperationRunsInOrderToFirstError :
    (expand 4 (.setBrightness 9))[0]? = some (.setBrt 9) ∧ 0 + 1 < (expand 4 (.setBrightness 9)).length ∧
    (expand 4 (.setBrightness 9))[1]? = some .push0 ∧ ¬1 + 1 < (expand 4 (.setBrightness 9)).length ∧
    (after (exec .push0 good)).result = some .ok ∧
    (after (exec .push0 (idle 4 (failAfter 9)))).result = some (.lineError .clk ⟨7⟩) ∧
    (expand 4 .beginInit)[23]? = some .push1 ∧ ¬23 + 1 < (expand 4 .beginInit).length := by decide

/-- PE5: no rollback, and the request is dropped. -/
theorem test_pseudo_no_rollback :
    (runSteps 2 { idle 4 (failAfter 9) with requests := [.pseudo (.setBrightness 9) 0] }).cw0 = 0x79 ∧
    (runSteps 2 { idle 4 (failAfter 9) with requests := [.pseudo (.setBrightness 9) 0] }).requests = [] ∧
    (runSteps 2 { idle 4 (failAfter 9) with requests := [.pseudo (.setBrightness 9) 0] }).result =
      some (.lineError .clk ⟨7⟩) := by decide

theorem witness_IllegalWordChangesNothing :
    ({ good with requests := [.word 0x1104] } : State).requests = .word 0x1104 :: [] ∧
    ∀ r ∈ opcodeTable, (0x1104 : Word) &&& r.mask ≠ r.value := by decide

theorem witness_WaitsWhileNothingIsIssued : good.requests = [] := rfl

/-- Each kind of answer. -/
theorem witness_OnlyTheBlocksErrorsAreReturned :
    step good = .next good ∧
    (after (step (good.withFetchWord 16 0x0100))).result = some .ok ∧
    (after (step ((idle 4 (failAfter 1)).withFetchWord 16 0x0300))).result = some (.lineError .data ⟨7⟩) ∧
    (after (step ((idle 4 (failAfter 0)).withFetchWord 16 0x0100))).result = some (.lineError .clk ⟨7⟩) ∧
    (after (step ((idle 4 (failAfter 0)).withFetchWord 16 0x0400))).result = some (.lineError .ce ⟨7⟩) ∧
    (after (step ((idle 4 (failAfter 1)).withFetchWord 16 0x0100))).result = some (.lineError .rs ⟨7⟩) ∧
    (after (step (good.withFetchWord 16 0x1104))).result = some (.illegalCommand 0x1104) :=
  ⟨rfl, by decide⟩

/-- All sets ok, and a failure at each of the three. -/
theorem witness_EnterDotDrivesItsLines :
    good.AllOk [⟨.clk, .high⟩, ⟨.rs, .low⟩, ⟨.ce, .low⟩] ∧
    (idle 4 (failAfter 0)).FailsAt [] ⟨.clk, .high⟩ ⟨7⟩ ∧
    (idle 4 (failAfter 1)).FailsAt [⟨.clk, .high⟩] ⟨.rs, .low⟩ ⟨7⟩ ∧
    (idle 4 (failAfter 2)).FailsAt [⟨.clk, .high⟩, ⟨.rs, .low⟩] ⟨.ce, .low⟩ ⟨7⟩ := by
  unfold State.FailsAt State.AllOk; decide

theorem witness_EnterCtrlDrivesItsLines :
    good.AllOk [⟨.clk, .high⟩, ⟨.rs, .high⟩, ⟨.ce, .low⟩] ∧
    (idle 4 (failAfter 0)).FailsAt [] ⟨.clk, .high⟩ ⟨7⟩ ∧
    (idle 4 (failAfter 1)).FailsAt [⟨.clk, .high⟩] ⟨.rs, .high⟩ ⟨7⟩ ∧
    (idle 4 (failAfter 2)).FailsAt [⟨.clk, .high⟩, ⟨.rs, .high⟩] ⟨.ce, .low⟩ ⟨7⟩ := by
  unfold State.FailsAt State.AllOk; decide

theorem witness_ShiftSendsTheByteFromItsTopBit :
    (shifting (oks 24)).AllOk ([7, 6, 5, 4, 3, 2, 1, 0].flatMap fun i =>
      [⟨.clk, .low⟩, ⟨.data, if (0xA5#8).getLsbD i then .high else .low⟩, ⟨.clk, .high⟩]) := by
  unfold State.AllOk; decide

theorem witness_LatchRaisesChipEnableThenIdlesClock :
    (shifting (oks 2)).AllOk [⟨.ce, .high⟩, ⟨.clk, .low⟩] ∧
    (shifting (failAfter 0)).FailsAt [] ⟨.ce, .high⟩ ⟨7⟩ ∧
    (shifting (failAfter 1)).FailsAt [⟨.ce, .high⟩] ⟨.clk, .low⟩ ⟨7⟩ := by
  unfold State.FailsAt State.AllOk; decide

/-- Each of the four commands answers Ok. -/
theorem witness_LineLevelsAfterOkEngineCommands :
    (after (exec .enterDot good)).result = some .ok ∧ (after (exec .enterCtrl good)).result = some .ok ∧
    (after (exec (.shift 0xFF) good)).result = some .ok ∧ (after (exec .latch good)).result = some .ok := by decide

/-- Each of the four commands answers, Ok or not. -/
theorem witness_EngineCommandsLeaveRegistersAndOtherLines :
    exec .enterDot good = .next (after (exec .enterDot good)) ∧
    exec .enterCtrl (idle 4 (failAfter 2)) = .next (after (exec .enterCtrl (idle 4 (failAfter 2)))) ∧
    exec (.shift 0x80) (shifting (failAfter 4)) = .next (after (exec (.shift 0x80) (shifting (failAfter 4)))) ∧
    exec .latch good = .next (after (exec .latch good)) := ⟨rfl, rfl, rfl, rfl⟩

theorem witness_LineErrorEndsCommandAtTheFailingSet :
    lineSetsOf good .latch = [⟨.ce, .high⟩] ++ ⟨.clk, .low⟩ :: [] ∧
    (shifting (failAfter 1)).FailsAt [⟨.ce, .high⟩] ⟨.clk, .low⟩ ⟨7⟩ := by
  unfold State.FailsAt State.AllOk; decide

theorem witness_CommandsDoNotReadLineLevels : exec .push0 good = .next (after (exec .push0 good)) := rfl

theorem witness_CommandsDoNotReadLife : exec .push1 good = .next (after (exec .push1 good)) := rfl

theorem witness_EncoderCommandsWriteOneFieldOnly :
    [Instr.setBrt 255, .setCur .ma40, .setWake .wake, .setFan .serial, .setPre .div8].map fieldWritten =
      [some .brt, some .peak, some .wake, some .dout, some .pre] := by decide

/-- The pseudo-operation is issued, and its push fails or not. -/
theorem witness_BrightnessMaskingLaw :
    exec (.setBrt 255) good = .next (after (exec (.setBrt 255) good)) ∧
    ({ good with requests := [.pseudo (.setBrightness 255) 0] } : State).requests =
      .pseudo (.setBrightness 255) 0 :: [] := ⟨rfl, rfl⟩

theorem witness_EncoderFieldsAreIndependent :
    fieldWritten (.setBrt 3) = some .brt ∧ fieldWritten (.setWake .sleep) = some .wake ∧
    exec (.setBrt 3) good = .next (after (exec (.setBrt 3) good)) ∧ good.peakCode.wf = true ∧
    exec (.setCur .ma93) good = .next (after (exec (.setCur .ma93) good)) ∧
    exec (.setWake .wake) good = .next (after (exec (.setWake .wake) good)) ∧
    exec (.setFan .serial) good = .next (after (exec (.setFan .serial) good)) ∧
    exec (.setPre .direct) good = .next (after (exec (.setPre .direct) good)) := by
  refine ⟨rfl, rfl, rfl, ?_, rfl, rfl, rfl, rfl⟩; decide

/-- In both modes, at the least width and above it. -/
theorem witness_Push0SendsRepeatedCopiesOfCw0 :
    good.AllOk (pushSets 1 good.cw0) ∧ (idle 8 (oks 53)).AllOk (pushSets (8 / 4) 0x7C) ∧
    ({ idle 8 (oks 29) with dom := .simultaneous } : State).AllOk (pushSets 1 0x7C) := by
  unfold State.AllOk; decide

theorem witness_Push1SendsCw1AndThenMirrorsIt :
    good.AllOk (pushSets 1 good.cw1) ∧ (idle 8 (oks 53)).AllOk (pushSets (8 / 4) 0x80) ∧
    ({ idle 8 (oks 29) with dom := .simultaneous } : State).AllOk (pushSets 1 0x80) := by
  unfold State.AllOk; decide

theorem witness_RepeatCountComesFromTheMirror :
    4 ≤ good.n ∧ good.repeatCount = 1 ∧ (idle 7 []).repeatCount = 1 ∧ (idle 8 []).repeatCount = 2 ∧
    ({ idle 8 [] with dom := .simultaneous } : State).repeatCount = 1 := by decide

/-- A push that completes, one that fails, another command. -/
theorem witness_MirrorIsWrittenOnlyByCompletedPush1 :
    (after (exec .push1 { good with cw1 := 0x81 })).result = some .ok ∧
    (after (exec .push1 { idle 4 (failAfter 28) with cw1 := 0x81 })).result = some (.lineError .clk ⟨7⟩) ∧
    (after (exec .push0 { good with cw1 := 0x81 })).result = some .ok := by decide

theorem witness_OkPushPerformsFivePlusTwentyFourPerCopy :
    (after (exec .push0 good)).result = some .ok ∧
    (after (exec .push1 { good with dom := .simultaneous })).result = some .ok := by decide

theorem witness_PushesLeaveRegisters :
    exec .push0 good = .next (after (exec .push0 good)) ∧
    exec .push1 (idle 8 (failAfter 40)) = .next (after (exec .push1 (idle 8 (failAfter 40)))) := ⟨rfl, rfl⟩

theorem good_inv : good.Inv := by constructor <;> decide

theorem witness_StepKeepsTagsAndReservedBits :
    good.Inv ∧ step good = .next good := ⟨good_inv, rfl⟩

theorem witness_StepKeepsLinesAtTheirLastEvents :
    (after (construct (wired 4) (oks 5))).LinesFollowTrace ∧
    step (after (construct (wired 4) (oks 5))) = .next (after (construct (wired 4) (oks 5))) :=
  ⟨by unfold State.LinesFollowTrace; decide, rfl⟩

/-- A run with a completed `PUSH1`, one without, and a construction. -/
theorem witness_MirrorHoldsLastCompletedPush1 :
    lastPushed1 [.setFan .simultaneous, .push1] good none = some 0x81 ∧
    lastPushed1 [.setFan .simultaneous, .push0] good none = none ∧
    construct (wired 4) (oks 5) = .next (after (construct (wired 4) (oks 5))) := ⟨by decide, by decide, rfl⟩

/-- The last step of `begin`, Ok and failing. -/
theorem witness_LifeBecomesActiveExactlyWhenBeginCompletes :
    (after (step { good with life := .uninitialized, requests := [.pseudo .beginInit 23] })).life = .active ∧
    23 + 1 = (expand 4 .beginInit).length ∧
    (after (step { idle 4 (failAfter 28) with
      life := .uninitialized, requests := [.pseudo .beginInit 23] })).life = .uninitialized := by decide

/-- Enough ok answers. -/
theorem answerAt_oks (k j : Nat) (x : LineSet) (h : j < k) : (idle 4 (oks k)).answerAt j x = .ok := by
  show answerWithin _ (match (List.replicate k Answer.ok)[j]? with | some a => a | none => _) = _
  rw [List.getElem?_replicate, if_pos h]
  rfl

/-- S5's hypotheses: `N = 4`, serial, all of its 543 line sets ok. -/
theorem witness_BeginRunsClearThenBothPushes :
    ({ idle 4 (oks 543) with requests := [.pseudo .beginInit 0] } : State).requests = .pseudo .beginInit 0 :: [] ∧
    4 ≤ (idle 4 (oks 543)).n ∧ (5 + 120 * 4) + 2 * (5 + 24 * (4 / 4)) = 543 ∧
    ∀ j < 543, ∀ x, (idle 4 (oks 543)).answerAt j x = .ok := by
  exact ⟨rfl, by decide, rfl, fun j hj x => answerAt_oks 543 j x hj⟩

theorem witness_ConstructionLeavesResetValues :
    construct (wired 4) (oks 5) = .next (after (construct (wired 4) (oks 5))) ∧ 4 ≤ (wired 4).n ∧
    ∀ k < 5, (oks 5)[k]? = some .ok := ⟨rfl, by decide, by decide⟩

theorem witness_NarrowConstructionIsRefused : (wired 3).n < 4 ∧ (wired 0).n < 4 := by decide

theorem witness_FailedConstructionLeavesNoBlock :
    4 ≤ (wired 4).n ∧ construct (wired 4) (failAfter 1) =
      .fault (.constructionFailed .ce ⟨7⟩ [⟨.data, .low, .ok⟩, ⟨.ce, .high, .err ⟨7⟩⟩]) := ⟨by decide, rfl⟩

theorem witness_WriteDotsIsOneFrameInArgumentOrder :
    AllReturnOk (expand good.n (.writeDots [0x12, 0x34])) good ∧
    idleWire.lines = good.lines ∧ idleWire.frame = none ∧ good.lines.ce = .high ∧
    good.lines.data ≠ .unknown :=
  ⟨⟨_, rfl, rfl, _, rfl, rfl, _, rfl, rfl, _, rfl, rfl, trivial⟩, rfl, rfl, rfl, by decide⟩

/-- A list of commands that all return Ok, tested by running it. -/
def allReturnOk : List Instr → State → Bool
  | [], _ => true
  | i :: is, s =>
    match exec i s with
    | .next t => decide (t.result = some .ok) && allReturnOk is t
    | .fault _ => false
    | .refused _ => false

theorem allReturnOk_sound (is : List Instr) (s : State) (h : allReturnOk is s = true) : AllReturnOk is s := by
  induction is generalizing s with
  | nil => trivial
  | cons i is ih =>
    unfold allReturnOk at h
    split at h
    · rename_i t ht
      rw [Bool.and_eq_true, decide_eq_true_eq] at h
      exact ⟨t, ht, h.1, ih t h.2⟩
    · cases h
    · cases h

theorem witness_ClearSendsAFullBlankImage : AllReturnOk (expand 4 .clear) (idle 4 (oks 485)) :=
  allReturnOk_sound _ _ (by decide)

theorem witness_WellFormedStreamsAreReadAsTheirFrames :
    wellFormedStream [.enterDot, .shift 0x12, .latch, .setBrt 3, .push0] = true ∧
    AllReturnOk [.enterDot, .shift 0x12, .latch, .setBrt 3, .push0] good ∧
    idleWire.lines = good.lines ∧ idleWire.frame = none ∧ good.lines.ce = .high ∧
    good.lines.data ≠ .unknown :=
  ⟨rfl, allReturnOk_sound _ _ (by decide), rfl, rfl, rfl, by decide⟩

/-- Both pushes, on a chain of 8 whose display a `begin` has repaired. -/
theorem witness_OkPushReachesEveryDevice :
    (after (step ((idle 8 (oks 53)).withFetchWord 16 0x2000))).result = some .ok ∧
    (after (step ((idle 8 (oks 53)).withFetchWord 16 0x2100))).result = some .ok ∧
    ((idle 8 (oks 53)).withFetchWord 16 0x2000).requests = [.word (encode .push0)] ∧
    ((idle 8 (oks 53)).withFetchWord 16 0x2100).requests = [.word (encode .push1)] ∧
    (idle 8 (oks 53)).life = .active ∧ (idle 8 (oks 53)).n % 4 = 0 ∧ repairedView.ready = true ∧
    repairedView.inStep = true ∧ repairedView.stage = .between ∧ (idle 8 (oks 53)).lines.ce = .high ∧
    (idle 8 (oks 53)).lines.data ≠ .unknown ∧ idleWire.lines = (idle 8 (oks 53)).lines := by decide

theorem witness_RepeatedPushLeavesTheDisplay :
    (after (exec .push0 (after (exec .push0 (idle 8 (oks 106)))))).result = some .ok ∧
    (after (exec .push1 (after (exec .push1 { idle 8 (oks 106) with cw1 := 0x81 })))).result = some .ok := by decide

/-- A chain of 4 whose mode is not known, between transactions and in a frame left open; one of 8 whose mode is
known. -/
theorem witness_BeginRepairsTheDisplay :
    (idle 4 (oks 543)).n % 4 = 0 ∧ (idle 4 (oks 543)).n = 4 ∧ (Display.powerUp false).stage = .between ∧
    (idle 4 (oks 543)).lines.ce = .high ∧ ({ Display.powerUp false with stage := .stray } : Display).stage = .stray ∧
    (∀ j < 543, ∀ x, (idle 4 (oks 543)).answerAt j x = .ok) ∧
    (idle 8 (oks 1071)).n % 4 = 0 ∧ (Display.powerUp true).inStep = true ∧
    (∀ j < 1071, ∀ x, (idle 8 (oks 1071)).answerAt j x = .ok) :=
  ⟨rfl, rfl, rfl, rfl, rfl, fun j hj x => answerAt_oks 543 j x hj, rfl, rfl,
    fun j hj x => answerAt_oks 1071 j x hj⟩

/-- `PUSH1` and another command failing. -/
theorem witness_LineErrorLeavesTheDisplayUnknown :
    ((idle 4 (failAfter 28)).withFetchWord 16 0x2100).fetch = .command .push1 ∧
    (after (step ((idle 4 (failAfter 28)).withFetchWord 16 0x2100))).result = some (.lineError .clk ⟨7⟩) ∧
    ((idle 4 (failAfter 0)).withFetchWord 16 0x0400).fetch = .command .latch ∧
    (after (step ((idle 4 (failAfter 0)).withFetchWord 16 0x0400))).result = some (.lineError .ce ⟨7⟩) := by decide

/-- The last step of a `begin` that has gone well. -/
theorem witness_DisplayStaysUnknownUntilBeginCompletes :
    (Display.powerUp true).ready = false ∧ (Display.powerUp true).cw0 = none ∧
    ({ Display.powerUp true with repairing := true } : Display).watch
      { idle 4 (oks 29) with requests := [.pseudo .beginInit 23] } = repairedView := by decide

theorem witness_StreamsWithoutDeviceEffectLeaveNothingKnown :
    repairedView.stage = .between ∧
    exec .latch good = .next (after (exec .latch good)) ∧ exec .enterCtrl good = .next (after (exec .enterCtrl good)) ∧
    ({ repairedView with stage := .dotFrame false } : Display).stage = .dotFrame false ∧
    ({ repairedView with stage := .ctrlFrame } : Display).stage = .ctrlFrame ∧
    ({ repairedView with stage := .stray } : Display).stage = .stray ∧
    (after (exec .latch good)).lines.ce = .high ∧ (after (exec (.shift 0x80) good)).result = some .ok ∧
    fieldWritten (.setBrt 3) = some .brt ∧ (0x80#8).getLsbD 7 = true :=
  ⟨rfl, rfl, rfl, rfl, rfl, rfl, by decide, by decide, rfl, rfl⟩

/-- An address setup, a shift, and a latch that fails at its first set. -/
theorem witness_AbortedTransactionsLeaveTheFanOutMatch :
    (after (exec .enterCtrl (idle 8 (failAfter 1)))).result = some (.lineError .rs ⟨7⟩) ∧
    repairedView.stage = .between ∧
    (after (exec (.shift 0x23) (idle 8 (failAfter 4)))).result = some (.lineError .data ⟨7⟩) ∧
    ({ repairedView with stage := .ctrlFrame } : Display).stage = .ctrlFrame ∧
    (after (exec .latch { idle 8 (failAfter 0) with lines := ⟨.low, .high, .low, .low⟩ })).result =
      some (.lineError .ce ⟨7⟩) ∧
    (after (exec .latch { idle 8 (failAfter 0) with lines := ⟨.low, .high, .low, .low⟩ })).lines.ce ≠ .high := by decide

theorem witness_OrderedStreamsFromIdleAreWellFormed :
    wellFormedStream [.enterDot, .shift 0x12, .latch, .setBrt 3, .push0] = true ∧ good.lines.ce = .high ∧
    good.lines.clk = .low ∧ AllReturnOk [.enterDot, .shift 0x12, .latch, .setBrt 3, .push0] good :=
  ⟨rfl, rfl, rfl, allReturnOk_sound _ _ (by decide)⟩

theorem witness_PseudoOperationsAreWellFormedStreams :
    good.lines.phase = .idle ∧ AllReturnOk (expand 4 (.setBrightness 3)) good :=
  ⟨rfl, allReturnOk_sound _ _ (by decide)⟩

theorem witness_CausesAreOfTheirLinesType :
    (∀ e ∈ good.trace, ∀ c, e.outcome = .err c → isCauseOf (causeTypeOf good.causes e.line) c = true) ∧
    ((idle 4 (failAfter 0)).withFetchWord 16 0x0400).fetch = .command .latch ∧
    (after (step ((idle 4 (failAfter 0)).withFetchWord 16 0x0400))).result = some (.lineError .ce ⟨7⟩) := by
  refine ⟨fun e he => ?_, by decide, by decide⟩
  cases he

/-- A line whose error type has no value cannot fail; one of 8 values can fail with its causes only (R5). -/
theorem test_causes :
    (after (exec .latch { idle 4 (failAfter 0 ++ oks 2) with
      causes := { anyCause with ce := ⟨some 0⟩ } })).result = some .ok ∧
    (after (exec .latch { idle 4 (failAfter 0 ++ oks 2) with
      causes := { anyCause with ce := ⟨some 8⟩ } })).result = some (.lineError .ce ⟨7⟩) := by decide

/-- `begin`'s last command. -/
theorem witness_PseudoOperationsExpandAsListed :
    23 + 1 = (expand 4 .beginInit).length ∧
    (after (step { good with requests := [.pseudo .beginInit 23] })).result = some .ok := by decide

theorem witness_AssemblerTakesExactlyWellFormedLines :
    (AsmOperand.name .ma128, (3 : Byte)) ∈ [(AsmOperand.number 3, (3 : Byte)), (.name .ma128, 3)] := by decide

/-- S9 and S10. -/
theorem test_pseudo_sleep_and_simultaneous :
    (runSteps 2 { good with requests := [.pseudo .displaySleep 0] }).cw0 = 0x3C ∧
    (runSteps 2 { good with requests := [.pseudo .displaySleep 0] }).trace.length = 29 ∧
    (runSteps 2 { idle 16 (oks 101) with requests := [.pseudo .setSimultaneousDataOut 0] }).dom = .simultaneous ∧
    (runSteps 2 { idle 16 (oks 101) with requests := [.pseudo .setSimultaneousDataOut 0] }).trace.length = 101 := by
  decide +kernel

/-- S11 and S12. -/
theorem test_pseudo_serial_and_prescaler :
    (runSteps 2 { idle 16 (oks 29) with
      dom := .simultaneous, cw1 := 0x81, requests := [.pseudo .setSerialDataOut 0] }).dom = .serial ∧
    (runSteps 2 { idle 16 (oks 29) with
      dom := .simultaneous, cw1 := 0x81, requests := [.pseudo .setSerialDataOut 0] }).trace.length = 29 ∧
    (runSteps 2 { good with requests := [.pseudo (.setOscillatorPrescaler .div8) 0] }).cw1 = 0x82 ∧
    (runSteps 2 { good with requests := [.pseudo (.setOscillatorPrescaler .div8) 0] }).trace.length = 29 := by
  decide

/-- A failure at CLK Low of the first bit, at DATA of the second, and at CLK High of the last. -/
theorem witness_ShiftCutShortSamplesTheBitsBeforeIt :
    (shiftSets 0xA5)[3 * 0 + 0]? = some ⟨.clk, .low⟩ ∧
    (shifting (failAfter 0)).FailsAt ((shiftSets 0xA5).take (3 * 0 + 0)) ⟨.clk, .low⟩ ⟨7⟩ ∧
    (shiftSets 0xA5)[3 * 1 + 1]? = some ⟨.data, .low⟩ ∧
    (shifting (failAfter 4)).FailsAt ((shiftSets 0xA5).take (3 * 1 + 1)) ⟨.data, .low⟩ ⟨7⟩ ∧
    (shiftSets 0xA5)[3 * 7 + 2]? = some ⟨.clk, .high⟩ ∧
    (shifting (failAfter 23)).FailsAt ((shiftSets 0xA5).take (3 * 7 + 2)) ⟨.clk, .high⟩ ⟨7⟩ ∧
    inFrame.lines = (shifting []).lines ∧ inFrame.frame = some ⟨.dot, [], false⟩ := by
  unfold State.FailsAt State.AllOk; decide

end Sys2Proof.Tests
end

section
/-! The mirror invariant of DOM (10_state.md R18): what one command does to DOM, then every list of commands by
induction, and what construction leaves. -/

namespace Sys2Proof.Proofs

open Sys2Proof Sys2Proof.Machine Sys2Proof.Laws

/-- DOM is written by a `PUSH1` that returns Ok, with the data-out bit of the byte it transmitted, and by nothing
else (R74, R82). -/
theorem exec_dom (i : Instr) (s t : State) (h : exec i s = .next t) :
    t.dom = if i = .push1 ∧ t.result = some .ok then dataOut s.cw1 else s.dom := by
  rcases exec_next i s t h with ⟨-, rfl⟩ | ⟨pre, x, post, c, -, -, rfl⟩
  · simp
  · simp [errState_eq]

/-- The last pushed byte of a run is that of the rest of the run, from the first command's own push, if any. -/
theorem lastPushed1_cons (i : Instr) (is : List Instr) (s t : State) (last : Option Byte)
    (h : exec i s = .next t) :
    lastPushed1 (i :: is) s last =
      lastPushed1 is t (if i = .push1 ∧ t.result = some .ok then some s.cw1 else last) := by
  simp [lastPushed1, h]

/-- The mirror invariant of R18 along a run, for whatever `last` was pushed before it: where DOM is the data-out bit
of `last`, or `d` if there is none, so it is of the last byte pushed by the end. -/
theorem runCommands_dom (d : FanMode) (is : List Instr) (s : State) (last : Option Byte)
    (h : s.dom = last.elim d dataOut) :
    (runCommands is s).dom = (lastPushed1 is s last).elim d dataOut := by
  induction is generalizing s last with
  | nil => exact h
  | cons i is ih =>
    obtain ⟨t, ht⟩ := exec_answers i s
    rw [runCommands_cons i is s t ht, lastPushed1_cons i is s t last ht]
    apply ih
    rw [exec_dom i s t ht]
    split
    · rfl
    · exact h

/-- A construction that gives a block has `N` at least 4 and every line set answered ok, and leaves them all
recorded (R101, R102). -/
theorem construct_next (a : ConstructArgs) (answers : List Answer) (s : State)
    (h : construct a answers = .next s) :
    4 ≤ a.n ∧ (preConstruction a answers).AllOk (constructionSets a) ∧
      s = recordAll (preConstruction a answers) (okEvents (constructionSets a)) := by
  unfold construct at h
  split at h
  · cases h
  next hn =>
    split at h
    next t ht =>
      cases h
      exact ⟨Nat.le_of_not_lt hn, runSets_done _ _ _ ht⟩
    · cases h

/-- Settles O40, by induction on the commands, with the last byte pushed before them as a parameter. -/
theorem mirrorHoldsLastCompletedPush1 : Obligations.MirrorHoldsLastCompletedPush1 := by
  unfold Obligations.MirrorHoldsLastCompletedPush1
  constructor
  · intro is s
    rw [runCommands_dom s.dom is s none rfl]
    cases lastPushed1 is s none <;> rfl
  · intro a answers s h
    obtain ⟨-, -, rfl⟩ := construct_next a answers s h
    simp [recordAll_eq, preConstruction]

end Sys2Proof.Proofs
end

section
/-! What `SHIFT` sends (30_encoding.md R50, 40_transfer_engine.md R64): its sets by position, and the whole state in
which it returns Ok. -/

namespace Sys2Proof.Proofs

open Sys2Proof Sys2Proof.Machine Sys2Proof.Laws

/-- Every bit shifted out has three sets, so set `3j + k` of a run of bits is set `k` of its bit `j`. -/
theorem getElem?_flatMap_bitSets (b : Byte) (is : List Nat) (j k : Nat) (hk : k < 3) :
    (is.flatMap (bitSets b))[3 * j + k]? = is[j]?.bind fun i => (bitSets b i)[k]? := by
  have hlen : ∀ i, (bitSets b i).length = 3 := fun _ => rfl
  induction is generalizing j with
  | nil => simp
  | cons i is ih =>
    rw [List.flatMap_cons]
    cases j with
    | zero => simp [List.getElem?_append_left, hlen, hk]
    | succ j =>
      rw [List.getElem?_append_right (by rw [hlen]; omega), hlen, show 3 * (j + 1) + k - 3 = 3 * j + k by omega, ih]
      simp

/-- Most significant bit first: the sets of place `j` of `SHIFT b` are those of bit `7 - j` (R50). -/
theorem okEvents_shiftSets_getElem? (b : Byte) (j k : Nat) (hj : j < 8) (hk : k < 3) :
    (okEvents (shiftSets b))[3 * j + k]? = (okEvents (bitSets b (7 - j)))[k]? := by
  have hbit : ∀ j < 8, [7, 6, 5, 4, 3, 2, 1, 0][j]? = some (7 - j) := by decide
  rw [okEvents, okEvents, List.getElem?_map, List.getElem?_map, shiftSets, getElem?_flatMap_bitSets b _ j k hk,
    hbit j hj, Option.bind_some]

/-- The state in which `SHIFT b` returns Ok differs in the lines, TRACE, the pending answers and the result. -/
theorem okState_shift (b : Byte) (s : State) :
    okState (.shift b) s = { s with
      lines := { s.lines with clk := .high, data := if b.getLsbD 0 then .high else .low }
      trace := s.trace ++ okEvents (shiftSets b)
      answers := s.answers.drop 24
      result := some .ok } := by
  simp [okState, registerEffect, recordAll_eq, lineSetsOf, shiftSets_lines, State.returnOk]

/-- Settles O15: the events are those of `shiftSets b`, read by position. -/
theorem shiftSendsTheByteFromItsTopBit : Obligations.ShiftSendsTheByteFromItsTopBit := by
  unfold Obligations.ShiftSendsTheByteFromItsTopBit
  intro b s hok
  refine ⟨okEvents (shiftSets b), ?_, by simp, fun j hj => ⟨?_, ?_, ?_⟩⟩
  · rw [exec_ok (.shift b) s hok, okState_shift]
  · exact okEvents_shiftSets_getElem? b j 0 hj (by decide)
  · exact okEvents_shiftSets_getElem? b j 1 hj (by decide)
  · exact okEvents_shiftSets_getElem? b j 2 hj (by decide)

end Sys2Proof.Proofs
end

section
/-! The events of commands that all return Ok, from one command to lists, and so of a dot frame (30_encoding.md R57,
R58). -/

namespace Sys2Proof.Proofs

open Sys2Proof Sys2Proof.Machine Sys2Proof.Laws

/-- A list returns Ok throughout when its first command's sets are all answered ok and the others return Ok from the
state it leaves. -/
theorem allReturnOk_cons (i : Instr) (is : List Instr) (s : State) :
    AllReturnOk (i :: is) s ↔ s.AllOk (lineSetsOf s i) ∧ AllReturnOk is (okState i s) := by
  constructor
  · rintro ⟨t, ht, hr, hrest⟩
    obtain ⟨hok, rfl⟩ := exec_next_ok i s t ht hr
    exact ⟨hok, hrest⟩
  · rintro ⟨hok, hrest⟩
    exact ⟨_, exec_ok i s hok, okState_result i s, hrest⟩

/-- The trace of a dot frame's shifts and latch, all of which return Ok, for any number of bytes. -/
theorem runCommands_shifts_latch_trace (bytes : List Byte) (s : State)
    (h : AllReturnOk (bytes.map .shift ++ [.latch]) s) :
    (runCommands (bytes.map .shift ++ [.latch]) s).trace =
      s.trace ++ okEvents (bytes.flatMap shiftSets ++ latchSets) := by
  induction bytes generalizing s with
  | nil =>
    obtain ⟨hok, -⟩ := (allReturnOk_cons _ _ s).1 h
    rw [List.map_nil, List.nil_append, runCommands_cons _ _ s _ (exec_ok _ s hok)]
    exact okState_trace .latch s
  | cons b bytes ih =>
    obtain ⟨hok, hrest⟩ := (allReturnOk_cons _ _ s).1 h
    rw [List.map_cons, List.cons_append, runCommands_cons _ _ s _ (exec_ok _ s hok), ih _ hrest, okState_trace]
    simp [lineSetsOf]

/-- A dot frame is an address setup and what follows it (R57). -/
theorem writeDotsCommands_eq (bytes : List Byte) :
    writeDotsCommands bytes = .enterDot :: (bytes.map .shift ++ [.latch]) := rfl

/-- The trace of a dot frame that returns Ok grows by the address setup's, the bytes' and the latch's events. -/
theorem runCommands_writeDots_trace (bytes : List Byte) (s : State)
    (h : AllReturnOk (writeDotsCommands bytes) s) :
    (runCommands (writeDotsCommands bytes) s).trace =
      s.trace ++ okEvents (enterDotSets ++ bytes.flatMap shiftSets ++ latchSets) := by
  rw [writeDotsCommands_eq] at h ⊢
  obtain ⟨hok, hrest⟩ := (allReturnOk_cons _ _ s).1 h
  rw [runCommands_cons _ _ s _ (exec_ok _ s hok), runCommands_shifts_latch_trace bytes _ hrest, okState_trace]
  simp [lineSetsOf]

/-- A dot frame of `k` bytes that returns Ok emits `5 + 24k` line sets (R57). -/
theorem runCommands_writeDots_trace_length (bytes : List Byte) (s : State)
    (h : AllReturnOk (writeDotsCommands bytes) s) :
    (runCommands (writeDotsCommands bytes) s).trace.length = s.trace.length + (5 + 24 * bytes.length) := by
  have hbytes : (bytes.flatMap shiftSets).length = 24 * bytes.length := by
    simp [List.length_flatMap, Nat.mul_comm]
  rw [runCommands_writeDots_trace bytes s h]
  simp only [List.length_append, okEvents_length, hbytes, enterDotSets_length, latchSets_length]
  omega

/-- Settles O48: `clear` is a dot frame of `5N` bytes. -/
theorem clearSendsAFullBlankImage : Obligations.ClearSendsAFullBlankImage := by
  unfold Obligations.ClearSendsAFullBlankImage
  intro s
  refine ⟨rfl, fun h => ?_⟩
  have hlen := runCommands_writeDots_trace_length (List.replicate (5 * s.n) 0x00) s h
  rw [List.length_replicate, show 24 * (5 * s.n) = 120 * s.n by omega] at hlen
  exact hlen

end Sys2Proof.Proofs
end

section
/-! The table of line levels and event counts of the engine commands that return Ok (40_transfer_engine.md R68): one
rule for every command, read off at the sets of each of the four. -/

namespace Sys2Proof.Proofs

open Sys2Proof Sys2Proof.Machine Sys2Proof.Laws

/-- A command that returns Ok leaves the lines where all its sets, made in order, leave them, and one event in TRACE
for each set. -/
theorem exec_ok_lines_and_count (i : Instr) (s t : State) (h : exec i s = .next t) (hr : t.result = some .ok) :
    t.lines = (okEvents (lineSetsOf s i)).foldl Lines.afterEvent s.lines ∧
      t.trace.length = s.trace.length + (lineSetsOf s i).length := by
  obtain ⟨-, rfl⟩ := exec_next_ok i s t h hr
  simp

/-- Settles O17, row by row: where the sets of each command leave the lines, and how many they are. -/
theorem lineLevelsAfterOkEngineCommands : Obligations.LineLevelsAfterOkEngineCommands := by
  unfold Obligations.LineLevelsAfterOkEngineCommands
  intro s t hr
  refine ⟨fun h => ?enterDot, fun h => ?enterCtrl, fun b h => ?shift, fun h => ?latch⟩
  case enterDot =>
    obtain ⟨hlines, hcount⟩ := exec_ok_lines_and_count .enterDot s t h hr
    exact ⟨hlines.trans (enterDotSets_lines s.lines), hcount⟩
  case enterCtrl =>
    obtain ⟨hlines, hcount⟩ := exec_ok_lines_and_count .enterCtrl s t h hr
    exact ⟨hlines.trans (enterCtrlSets_lines s.lines), hcount⟩
  case shift =>
    obtain ⟨hlines, hcount⟩ := exec_ok_lines_and_count (.shift b) s t h hr
    exact ⟨hlines.trans (shiftSets_lines b s.lines), hcount⟩
  case latch =>
    obtain ⟨hlines, hcount⟩ := exec_ok_lines_and_count .latch s t h hr
    exact ⟨hlines.trans (latchSets_lines s.lines), hcount⟩

end Sys2Proof.Proofs
end

section
/-! Field insertion (30_encoding.md R51), bit by bit: the new value inside the field, the old register outside it. -/

namespace Sys2Proof.Proofs

open Sys2Proof Sys2Proof.Machine Sys2Proof.Laws

/-- The mask of a field has the field's bits, `width` of them from bit `lo` up, and no other. -/
theorem testBit_fieldMask (lo width k : Nat) :
    (((1 <<< width) - 1) <<< lo).testBit k = decide (lo ≤ k ∧ k < lo + width) := by
  rw [Nat.one_shiftLeft, Nat.testBit_shiftLeft, Nat.testBit_two_pow_sub_one, ← Bool.decide_and, decide_eq_decide]
  omega

theorem getLsbD_insertField (r v : Byte) (lo width k : Nat) (hk : k < 8) :
    (insertField r lo width v).getLsbD k =
      if lo ≤ k ∧ k < lo + width then v.getLsbD (k - lo) else r.getLsbD k := by
  have hmask : (((((1 <<< width) - 1) <<< lo : Nat)) : Byte).getLsbD k = decide (lo ≤ k ∧ k < lo + width) := by
    rw [BitVec.natCast_eq_ofNat, BitVec.getLsbD_ofNat, testBit_fieldMask, decide_eq_true hk, Bool.true_and]
  simp only [insertField, BitVec.getLsbD_or, BitVec.getLsbD_and, BitVec.getLsbD_not, BitVec.getLsbD_shiftLeft, hmask]
  by_cases hin : lo ≤ k ∧ k < lo + width
  · simp [hin, hk]
  · simp [hin, hk]

/-- The bit of a one-bit field is that of the value, the others are the register's. -/
theorem getLsbD_insertField_one (r v : Byte) (lo k : Nat) (hk : k < 8) :
    (insertField r lo 1 v).getLsbD k = if k = lo then v.getLsbD 0 else r.getLsbD k := by
  rw [getLsbD_insertField r v lo 1 k hk]
  by_cases h : k = lo
  · subst h; simp
  · rw [if_neg h, if_neg (by omega)]

/-- A field reads back as the low bits of what was inserted. -/
theorem extractLsb'_insertField_same (r v : Byte) (lo width : Nat) (h : lo + width ≤ 8) :
    (insertField r lo width v).extractLsb' lo width = v.extractLsb' 0 width := by
  apply BitVec.eq_of_getLsbD_eq
  intro i hi
  rw [BitVec.getLsbD_extractLsb', BitVec.getLsbD_extractLsb', getLsbD_insertField r v lo width _ (by omega),
    if_pos (by omega), Nat.add_sub_cancel_left, Nat.zero_add]

/-- The places of two fields have no bit in common. -/
def Apart (lo width lo' width' : Nat) : Prop := lo + width ≤ lo' ∨ lo' + width' ≤ lo

/-- A field apart from the one inserted keeps its bits. -/
theorem extractLsb'_insertField_apart (r v : Byte) (lo width lo' width' : Nat) (h : Apart lo width lo' width')
    (h' : lo' + width' ≤ 8) :
    (insertField r lo width v).extractLsb' lo' width' = r.extractLsb' lo' width' := by
  unfold Apart at h
  apply BitVec.eq_of_getLsbD_eq
  intro i hi
  rw [BitVec.getLsbD_extractLsb', BitVec.getLsbD_extractLsb', getLsbD_insertField r v lo width _ (by omega),
    if_neg (by omega)]

/-- Insertions into fields apart from each other commute. -/
theorem insertField_comm (r v w : Byte) (lo width lo' width' : Nat) (h : Apart lo width lo' width') :
    insertField (insertField r lo' width' w) lo width v = insertField (insertField r lo width v) lo' width' w := by
  unfold Apart at h
  apply BitVec.eq_of_getLsbD_eq
  intro k hk
  simp only [getLsbD_insertField _ _ _ _ k hk]
  by_cases hin : lo ≤ k ∧ k < lo + width
  · rw [if_pos hin, if_neg (by omega), if_pos hin]
  · rw [if_neg hin, if_neg hin]

end Sys2Proof.Proofs
end

section
/-! The encoder commands as one operation (41_control_word_encoder.md R70): each sets one field, at its place in its
register, and returns Ok. Settings of different fields are independent (R78). -/

namespace Sys2Proof.Proofs

open Sys2Proof Sys2Proof.Machine Sys2Proof.Laws

/-- Whether the field is in CW0; the others are in CW1 (R15, R16). -/
def fieldInCw0 : Field → Bool
  | .brt => true
  | .peak => true
  | .wake => true
  | .dout => false
  | .pre => false

/-- The lowest bit of a field's place (R15, R16). -/
def fieldLow : Field → Nat
  | .brt => 0
  | .peak => 4
  | .wake => 6
  | .dout => 0
  | .pre => 1

/-- How many bits a field has (R15, R16). -/
def fieldWidth : Field → Nat
  | .brt => 4
  | .peak => 2
  | .wake => 1
  | .dout => 1
  | .pre => 1

/-- A value inserted into a field, and Ok returned (R70). -/
def setField (f : Field) (v : Byte) (s : State) : State :=
  if fieldInCw0 f then (s.writeCw0 (insertField s.cw0 (fieldLow f) (fieldWidth f) v)).returnOk
  else (s.writeCw1 (insertField s.cw1 (fieldLow f) (fieldWidth f) v)).returnOk

theorem exec_setBrt (b : Byte) (s : State) : exec (.setBrt b) s = .next (setField .brt b s) := rfl

theorem exec_setCur (l : PeakLevel) (s : State) :
    exec (.setCur l) s = .next (setField .peak ((codeOfLevel s.peakCode l).setWidth 8) s) := rfl

theorem exec_setWake (v : WakeMode) (s : State) :
    exec (.setWake v) s = .next (setField .wake ((wakeBit v).setWidth 8) s) := rfl

theorem exec_setFan (v : FanMode) (s : State) :
    exec (.setFan v) s = .next (setField .dout ((fanBit v).setWidth 8) s) := rfl

theorem exec_setPre (v : PrescalerMode) (s : State) :
    exec (.setPre v) s = .next (setField .pre ((prescalerBit s.prescalerDiv8 v).setWidth 8) s) := rfl

/-- An encoder command sets its field, to a value that depends on the operand and the two parameters only. -/
theorem exec_setter (i : Instr) (f : Field) (h : fieldWritten i = some f) :
    ∃ v : PeakCode → BitVec 1 → Byte, ∀ s, exec i s = .next (setField f (v s.peakCode s.prescalerDiv8) s) := by
  cases i with
  | setBrt b => cases h; exact ⟨fun _ _ => b, exec_setBrt b⟩
  | setCur l => cases h; exact ⟨fun p _ => (codeOfLevel p l).setWidth 8, exec_setCur l⟩
  | setWake v => cases h; exact ⟨fun _ _ => (wakeBit v).setWidth 8, exec_setWake v⟩
  | setFan v => cases h; exact ⟨fun _ _ => (fanBit v).setWidth 8, exec_setFan v⟩
  | setPre v => cases h; exact ⟨fun _ d => (prescalerBit d v).setWidth 8, exec_setPre v⟩
  | enterDot | enterCtrl | shift | latch | push0 | push1 => cases h

@[simp] theorem setField_peakCode (f : Field) (v : Byte) (s : State) : (setField f v s).peakCode = s.peakCode := by
  cases f <;> rfl

@[simp] theorem setField_prescalerDiv8 (f : Field) (v : Byte) (s : State) :
    (setField f v s).prescalerDiv8 = s.prescalerDiv8 := by
  cases f <;> rfl

theorem fieldPlace_inByte (f : Field) : fieldLow f + fieldWidth f ≤ 8 := by
  cases f <;> decide

/-- Different fields of one register are apart. -/
theorem fieldPlaces_apart (f g : Field) (hne : f ≠ g) (hreg : fieldInCw0 f = fieldInCw0 g) :
    Apart (fieldLow f) (fieldWidth f) (fieldLow g) (fieldWidth g) := by
  unfold Apart
  cases f <;> cases g <;> simp_all [fieldInCw0, fieldLow, fieldWidth]

/-- The register a field is in. -/
def fieldRegister (f : Field) (s : State) : Byte := if fieldInCw0 f then s.cw0 else s.cw1

/-- The bits of a field are those at its place in its register. -/
theorem fieldBits_eq (s : State) (f : Field) :
    fieldBits s f = ((fieldRegister f s).extractLsb' (fieldLow f) (fieldWidth f)).toNat := by
  cases f <;> rfl

/-- Setting a field writes its register and leaves the other. -/
theorem fieldRegister_setField (f g : Field) (v : Byte) (s : State) :
    fieldRegister g (setField f v s) =
      if fieldInCw0 f = fieldInCw0 g then insertField (fieldRegister g s) (fieldLow f) (fieldWidth f) v
      else fieldRegister g s := by
  cases hf : fieldInCw0 f <;> cases hg : fieldInCw0 g <;> simp [setField, fieldRegister, hf, hg]

/-- Setting a field leaves the bits of every other. -/
theorem fieldBits_setField_of_ne (f g : Field) (v : Byte) (s : State) (h : g ≠ f) :
    fieldBits (setField f v s) g = fieldBits s g := by
  rw [fieldBits_eq, fieldBits_eq, fieldRegister_setField]
  split
  next hreg =>
    rw [extractLsb'_insertField_apart _ v _ _ _ _ (fieldPlaces_apart f g h.symm hreg) (fieldPlace_inByte g)]
  · rfl

theorem setField_comm (f g : Field) (v w : Byte) (s : State) (h : f ≠ g) :
    setField f v (setField g w s) = setField g w (setField f v s) := by
  have hcomm : fieldInCw0 f = fieldInCw0 g → ∀ r, insertField (insertField r (fieldLow g) (fieldWidth g) w)
      (fieldLow f) (fieldWidth f) v = insertField (insertField r (fieldLow f) (fieldWidth f) v)
      (fieldLow g) (fieldWidth g) w := fun hreg r => insertField_comm r v w _ _ _ _ (fieldPlaces_apart f g h hreg)
  cases hf : fieldInCw0 f <;> cases hg : fieldInCw0 g <;>
    simp_all [setField, State.writeCw0, State.writeCw1, State.returnOk]

end Sys2Proof.Proofs
end

section
/-! The five encoder commands (41_control_word_encoder.md R71 to R75): which of their words are legal, and the bits
they write. -/

namespace Sys2Proof.Proofs

open Sys2Proof Sys2Proof.Machine Sys2Proof.Laws

/-- The lvl2 form is legal exactly for the operands 0 to 3 (R45). -/
theorem lvl2Form_legal (op b : Byte) (f : PeakLevel → Instr) :
    (∃ i, lvl2Form op b f = .ok i) ↔ b.toNat < 4 := by
  simp only [lvl2Form_ok, exists_or, exists_and_left, exists_eq', and_true]
  bv_omega

/-- The bit1 form is legal exactly for the operands 0 and 1 (R45). -/
theorem bit1Form_legal (op b : Byte) (f g : Instr) : (∃ i, bit1Form op b f g = .ok i) ↔ b.toNat < 2 := by
  simp only [bit1Form_ok, exists_or, exists_and_left, exists_eq', and_true]
  bv_omega

/-- Settles O23: a field of four bits from bit 0 takes those of the operand. -/
theorem setBrtWritesTheLowFourBits : Obligations.SetBrtWritesTheLowFourBits := by
  unfold Obligations.SetBrtWritesTheLowFourBits
  intro b s
  refine ⟨by rw [decode_append]; rfl, insertField s.cw0 0 4 b, exec_setBrt b s, fun k hk => ?_⟩
  rw [getLsbD_insertField _ _ _ _ k hk]
  simp

/-- Settles O24: the two bits inserted are the level's code. -/
theorem setCurWritesThePeakCode : Obligations.SetCurWritesThePeakCode := by
  unfold Obligations.SetCurWritesThePeakCode
  refine ⟨fun b => ?legal, by decide, by decide, by decide, by decide, fun l s => ?writes⟩
  case legal =>
    rw [decode_append]
    exact lvl2Form_legal _ b _
  case writes =>
    refine ⟨insertField s.cw0 4 2 ((codeOfLevel s.peakCode l).setWidth 8), exec_setCur l s, fun k hk => ?_⟩
    rw [getLsbD_insertField _ _ _ _ k hk]
    have hplace : 4 ≤ k ∧ k < 4 + 2 ↔ k = 4 ∨ k = 5 := by omega
    have hlow : k - 4 < 8 := by omega
    simp only [hplace, BitVec.getLsbD_setWidth, hlow, decide_true, Bool.true_and]
    cases l <;> rfl

/-- Settles O25: the bit inserted is the operand's, whatever stood there. -/
theorem setWakeWritesBitSix : Obligations.SetWakeWritesBitSix := by
  unfold Obligations.SetWakeWritesBitSix
  refine ⟨fun b => ?legal, by decide, by decide, fun v s => ?writes⟩
  case legal =>
    rw [decode_append]
    exact bit1Form_legal _ b _ _
  case writes =>
    refine ⟨insertField s.cw0 6 1 ((wakeBit v).setWidth 8), exec_setWake v s, fun k hk => ?_⟩
    rw [getLsbD_insertField_one _ _ _ k hk]
    cases v <;> rfl

/-- Settles O26: the command writes CW1 alone, so the mirror stays. -/
theorem setFanWritesBitZeroAndNotTheMirror : Obligations.SetFanWritesBitZeroAndNotTheMirror := by
  unfold Obligations.SetFanWritesBitZeroAndNotTheMirror
  refine ⟨fun b => ?legal, by decide, by decide, fun v s => ?writes⟩
  case legal =>
    rw [decode_append]
    exact bit1Form_legal _ b _ _
  case writes =>
    refine ⟨insertField s.cw1 0 1 ((fanBit v).setWidth 8), exec_setFan v s, fun k hk => ?_⟩
    rw [getLsbD_insertField_one _ _ _ k hk]
    cases v <;> rfl

/-- The bit of a prescaler setting is `PRESCALER_DIV8`, or its complement (R75). -/
theorem getLsbD_prescalerBit (d : BitVec 1) (v : PrescalerMode) :
    (prescalerBit d v).getLsbD 0 = if v = .div8 then d.getLsbD 0 else !d.getLsbD 0 := by
  revert d
  cases v <;> decide

/-- Settles O27: the bit inserted is that of the setting, in either polarity. -/
theorem setPreWritesThePrescalerBit : Obligations.SetPreWritesThePrescalerBit := by
  unfold Obligations.SetPreWritesThePrescalerBit
  refine ⟨fun b => ?legal, by decide, by decide, fun v s => ?writes⟩
  case legal =>
    rw [decode_append]
    exact bit1Form_legal _ b _ _
  case writes =>
    refine ⟨insertField s.cw1 1 1 ((prescalerBit s.prescalerDiv8 v).setWidth 8), exec_setPre v s, fun k hk => ?_⟩
    rw [getLsbD_insertField_one _ _ _ k hk, BitVec.getLsbD_setWidth, getLsbD_prescalerBit]
    simp

/-- Settles O28: the command sets its field, and the masks are those of the fields' places. -/
theorem encoderCommandsWriteOneFieldOnly : Obligations.EncoderCommandsWriteOneFieldOnly := by
  unfold Obligations.EncoderCommandsWriteOneFieldOnly
  intro i f h
  obtain ⟨v, hv⟩ := exec_setter i f h
  refine ⟨v, fun s => ?_⟩
  have hs := hv s
  cases f with
  | brt => rw [← BitVec.shiftLeft_zero (v _ _)]; exact hs
  | peak => exact hs
  | wake => exact hs
  | dout => rw [← BitVec.shiftLeft_zero (v _ _)]; exact hs
  | pre => exact hs

end Sys2Proof.Proofs
end

section
/-! The masking law of the brightness field (41_control_word_encoder.md R77), for `SETBRT` and for the two steps of
`set_brightness`. -/

namespace Sys2Proof.Proofs

open Sys2Proof Sys2Proof.Machine Sys2Proof.Laws

/-- What the masking law says of CW0 before and after. -/
def MaskedBrightness (b before after : Byte) : Prop :=
  after &&& 0x0F = b &&& 0x0F ∧ after.extractLsb' 4 4 = before.extractLsb' 4 4

theorem maskedBrightness_insertField (b r : Byte) : MaskedBrightness b r (insertField r 0 4 b) := by
  constructor
  · have hnibble : ∀ k < 8, (0x0F : Byte).getLsbD k = decide (k < 4) := by decide
    apply BitVec.eq_of_getLsbD_eq
    intro k hk
    rw [BitVec.getLsbD_and, BitVec.getLsbD_and, getLsbD_insertField _ _ _ _ k hk, hnibble k hk]
    by_cases h : k < 4 <;> simp [h]
  · exact extractLsb'_insertField_apart r b 0 4 4 4 (.inl (by decide)) (by decide)

/-- A step that takes a command executes it and settles its result. -/
theorem step_command (s t : State) (i : Instr) (hf : s.fetch = .command i) (h : exec i s = .next t) :
    step s = .next t.settle := by
  simp [step, hf, h]

/-- The command a pseudo-operation under way takes next (R55). -/
theorem fetch_pseudo (s : State) (op : PseudoOp) (k : Nat) (qs : List Request) (i : Instr)
    (hq : s.requests = .pseudo op k :: qs) (hi : (expand s.n op)[k]? = some i) : s.fetch = .command i := by
  simp [State.fetch, hq, hi]

/-- After its last command a pseudo-operation leaves the queue, whatever the command returned (R56). -/
theorem settle_requests_of_last (t : State) (op : PseudoOp) (k : Nat) (qs : List Request)
    (h : t.requests = .pseudo op k :: qs) (hk : ¬k + 1 < (expand t.n op).length) : t.settle.requests = qs := by
  by_cases hr : t.result = some .ok
  · rw [settle_last t op k qs h hr hk]
  · rw [settle_error t op k qs h hr]

/-- `PUSH0` does not write CW0, whatever it returns (R80). -/
theorem push0_cw0 (s t : State) (h : exec .push0 s = .next t) : t.cw0 = s.cw0 := by
  rcases exec_next .push0 s t h with ⟨-, rfl⟩ | ⟨pre, x, post, c, -, -, rfl⟩
  · simp [okState, registerEffect, recordAll_eq]
  · simp [errState_eq]

/-- The two steps of `set_brightness b`: the field is set, and the push leaves CW0 (R55, R77). -/
theorem step_setBrightness (b : Byte) (s : State) (qs : List Request)
    (hq : s.requests = .pseudo (.setBrightness b) 0 :: qs) :
    ∃ t u, step s = .next t ∧ step t = .next u ∧ u.requests = qs ∧ u.cw0 = insertField s.cw0 0 4 b := by
  have hset := step_command s _ _ (fetch_pseudo s _ 0 qs (.setBrt b) hq rfl) (exec_setBrt b s)
  rw [settle_more (setField .brt b s) (.setBrightness b) 0 qs hq rfl (Nat.lt_add_one 1)] at hset
  obtain ⟨u, hu⟩ := exec_answers .push0
    { setField .brt b s with requests := .pseudo (.setBrightness b) 1 :: qs }
  have hpush := step_command _ u _ (fetch_pseudo _ (.setBrightness b) 1 qs .push0 rfl rfl) hu
  obtain ⟨-, -, -, -, -, hreq⟩ := exec_frame _ _ u hu
  refine ⟨_, u.settle, hset, hpush, settle_requests_of_last u _ 1 qs hreq (Nat.lt_irrefl 2), ?_⟩
  rw [settle_cw0, push0_cw0 _ u hu]
  rfl

/-- Settles O29. -/
theorem brightnessMaskingLaw : Obligations.BrightnessMaskingLaw := by
  unfold Obligations.BrightnessMaskingLaw
  intro b s
  constructor
  · intro t ht
    obtain rfl := Host.Outcome.next.inj ((exec_setBrt b s).symm.trans ht)
    exact maskedBrightness_insertField b s.cw0
  · intro qs hq
    obtain ⟨t, u, ht, hu, hreq, hcw0⟩ := step_setBrightness b s qs hq
    have hlaw := maskedBrightness_insertField b s.cw0
    rw [← hcw0] at hlaw
    exact ⟨t, u, ht, hu, hreq, hlaw⟩

end Sys2Proof.Proofs
end

section
/-! Field independence and read-back of the encoder commands (30_encoding.md R52, 41_control_word_encoder.md R78). -/

namespace Sys2Proof.Proofs

open Sys2Proof Sys2Proof.Machine Sys2Proof.Laws

/-- A bijective code table is inverted on its codes (R52). -/
theorem levelOfCode_codeOfLevel (p : PeakCode) (l : PeakLevel) (h : p.wf = true) :
    levelOfCode p (codeOfLevel p l) = l := by
  simp only [PeakCode.wf, PeakCode.distinct, decide_eq_true_eq, List.nodup_cons, List.mem_cons, not_or] at h
  cases l <;> simp_all [levelOfCode, codeOfLevel, eq_comm]

/-- The wake bit of a register reads as awake exactly when it is that of wake (R52). -/
theorem awake_of_bit (w : Byte) (v : WakeMode) (h : w.getLsbD 6 = (wakeBit v).getLsbD 0) :
    awake w = true ↔ v = .wake := by
  rw [awake, h]
  cases v <;> decide

/-- The data-out bit of a register reads as the mode whose bit it is (R52). -/
theorem dataOut_of_bit (w : Byte) (v : FanMode) (h : w.getLsbD 0 = (fanBit v).getLsbD 0) : dataOut w = v := by
  rw [dataOut, h]
  cases v <;> rfl

/-- The prescaler bit of a register reads as the setting whose bit it is (R52). -/
theorem prescaler_of_bits (d : BitVec 1) (w : Byte) (v : PrescalerMode) (h : w.extractLsb' 1 1 = prescalerBit d v) :
    prescaler d w = v := by
  have hcomplement : ∀ d : BitVec 1, 1 - d ≠ d := by decide
  rw [prescaler, h]
  cases v with
  | direct => exact if_neg (hcomplement d)
  | div8 => exact if_pos rfl

/-- The low bits of a code widened to a byte are the code. -/
theorem extractLsb'_setWidth (n : Nat) (c : BitVec n) (h : n ≤ 8) : (c.setWidth 8).extractLsb' 0 n = c := by
  rw [← BitVec.setWidth_eq_extractLsb' h, BitVec.setWidth_setWidth_of_le _ h, BitVec.setWidth_eq]

/-- Settles O30: settings of different fields are independent, and what is inserted into a field is read back. -/
theorem encoderFieldsAreIndependent : Obligations.EncoderFieldsAreIndependent := by
  unfold Obligations.EncoderFieldsAreIndependent
  refine ⟨?frame, ?commute, fun s t => ⟨?brt, ?cur, ?wake, ?fan, ?pre⟩⟩
  case frame =>
    intro i f g s t hf ht hne
    obtain ⟨v, hv⟩ := exec_setter i f hf
    obtain rfl := Host.Outcome.next.inj ((hv s).symm.trans ht)
    exact fieldBits_setField_of_ne f g _ s hne
  case commute =>
    intro i j f g s hf hg hne
    obtain ⟨v, hv⟩ := exec_setter i f hf
    obtain ⟨w, hw⟩ := exec_setter j g hg
    simp only [runCommands, hv, hw, setField_peakCode, setField_prescalerDiv8]
    exact (setField_comm f g _ _ s hne).symm
  case brt =>
    intro b ht
    obtain rfl := Host.Outcome.next.inj ((exec_setBrt b s).symm.trans ht)
    exact extractLsb'_insertField_same s.cw0 b 0 4 (by decide)
  case cur =>
    intro l hwf ht
    obtain rfl := Host.Outcome.next.inj ((exec_setCur l s).symm.trans ht)
    have hbits := extractLsb'_insertField_same s.cw0 ((codeOfLevel s.peakCode l).setWidth 8) 4 2 (by decide)
    rw [extractLsb'_setWidth 2 _ (by decide)] at hbits
    exact (congrArg (levelOfCode s.peakCode) hbits).trans (levelOfCode_codeOfLevel s.peakCode l hwf)
  case wake =>
    intro v ht
    obtain rfl := Host.Outcome.next.inj ((exec_setWake v s).symm.trans ht)
    exact awake_of_bit _ v (getLsbD_insertField_one s.cw0 _ 6 6 (by decide))
  case fan =>
    intro v ht
    obtain rfl := Host.Outcome.next.inj ((exec_setFan v s).symm.trans ht)
    exact dataOut_of_bit _ v (getLsbD_insertField_one s.cw1 _ 0 0 (by decide))
  case pre =>
    intro v ht
    obtain rfl := Host.Outcome.next.inj ((exec_setPre v s).symm.trans ht)
    have hbits := extractLsb'_insertField_same s.cw1 ((prescalerBit s.prescalerDiv8 v).setWidth 8) 1 1 (by decide)
    rw [extractLsb'_setWidth 1 _ (by decide)] at hbits
    exact prescaler_of_bits _ _ v hbits

end Sys2Proof.Proofs
end

section
/-! The data-out mirror and the event count of the control-word pushes (42_control_word_push.md R79, R82, R83). -/

namespace Sys2Proof.Proofs

open Sys2Proof Sys2Proof.Machine Sys2Proof.Laws

/-- Settles O34: the effect of one command on DOM, with the data-out bit written out. -/
theorem mirrorIsWrittenOnlyByCompletedPush1 : Obligations.MirrorIsWrittenOnlyByCompletedPush1 := by
  unfold Obligations.MirrorIsWrittenOnlyByCompletedPush1
  intro i s t h
  have hdom := exec_dom i s t h
  rwa [dataOut] at hdom

/-- The repeat count in each mode, a device being four characters (R79). -/
theorem repeatCount_eq (s : State) : s.repeatCount = if s.dom = .serial then s.n / 4 else 1 := by
  unfold State.repeatCount
  cases s.dom <;> rfl

/-- Both pushes have `5 + 24R` line sets, whatever the word they transmit (R80, R81, R83). -/
theorem lineSetsOf_push_length (i : Instr) (s : State) (hi : i = .push0 ∨ i = .push1) :
    (lineSetsOf s i).length = 5 + 24 * s.repeatCount := by
  rcases hi with rfl | rfl
  · exact pushSets_length s.repeatCount s.cw0
  · exact pushSets_length s.repeatCount s.cw1

/-- Settles O35: a command that returns Ok performs all its line sets, and a push has `5 + 24R` of them. -/
theorem okPushPerformsFivePlusTwentyFourPerCopy : Obligations.OkPushPerformsFivePlusTwentyFourPerCopy := by
  unfold Obligations.OkPushPerformsFivePlusTwentyFourPerCopy
  intro i s t hi h hr
  obtain ⟨-, hcount⟩ := exec_ok_lines_and_count i s t h hr
  rw [lineSetsOf_push_length i s hi, repeatCount_eq] at hcount
  refine ⟨hcount, fun hsim => ?_⟩
  rw [hcount, hsim]
  rfl

end Sys2Proof.Proofs
end

section
/-! What is returned in place of a meaning: the kinds of error of a step (60_exceptions.md R92), a word no row of the
decoder table selects (R90), and a construction that is too narrow (R91). -/

namespace Sys2Proof.Proofs

open Sys2Proof Sys2Proof.Machine Sys2Proof.Laws

/-- A command returns Ok or a line error on the line of one of its own sets (R86, R88). -/
theorem exec_result (i : Instr) (s t : State) (h : exec i s = .next t) :
    t.result = some .ok ∨ ∃ x ∈ lineSetsOf s i, ∃ c, t.result = some (.lineError x.line c) := by
  rcases exec_next i s t h with ⟨-, rfl⟩ | ⟨pre, x, post, c, hsets, -, rfl⟩
  · exact .inl (okState_result i s)
  · exact .inr ⟨x, by simp [hsets], c, errState_result s pre x c⟩

/-- Settles O11: by what the step takes, and for a command by the line of the set that fails. -/
theorem onlyTheBlocksErrorsAreReturned : Obligations.OnlyTheBlocksErrorsAreReturned := by
  unfold Obligations.OnlyTheBlocksErrorsAreReturned
  intro s t h
  rcases step_cases s t h with ⟨hf, rfl⟩ | ⟨w, -, rfl⟩ | ⟨i, u, -, hu, rfl⟩
  · exact .inl ⟨hf, rfl⟩
  · simp
  · rw [settle_result]
    rcases exec_result i s u hu with hok | ⟨x, hx, c, hc⟩
    · exact .inr (.inl hok)
    · rcases lineSetsOf_line s i x hx with hl | hl | hl | hl <;> simp [hc, hl]

/-- A word that selects a command is that command's encoding: every opcode fixes `OP`, and every operand form the whole
of `OPD` (R44, R45). -/
theorem encode_of_decode (w : Word) (i : Instr) (h : decode w = .ok i) : encode i = w := by
  rw [← fields_append w]
  unfold decode at h
  generalize opField w = op at *
  generalize opdField w = opd at *
  unfold decodeFields at h
  split at h
  -- `SHIFT` and `SETBRT` take every operand byte; then the lvl2, bit1 and zero forms
  case h_3 hop | h_5 hop =>
    obtain rfl := byte_of_toNat hop
    cases h
    rfl
  case h_6 hop =>
    obtain rfl := byte_of_toNat hop
    rcases lvl2Form_ok.1 h with ⟨rfl, rfl⟩ | ⟨rfl, rfl⟩ | ⟨rfl, rfl⟩ | ⟨rfl, rfl⟩ <;> rfl
  case h_7 hop | h_8 hop | h_9 hop =>
    obtain rfl := byte_of_toNat hop
    rcases bit1Form_ok.1 h with ⟨rfl, rfl⟩ | ⟨rfl, rfl⟩ <;> rfl
  case h_12 => cases h
  all_goals
    next hop =>
      obtain rfl := byte_of_toNat hop
      obtain ⟨rfl, rfl⟩ := zeroForm_ok.1 h
      rfl

/-- Every command's encoding is selected by its own row of the decoder table (R46). -/
theorem encodedRow (i : Instr) : EncodedRow.Statement i :=
  match i with
  | .enterDot => EncodedRow.enterDot
  | .enterCtrl => EncodedRow.enterCtrl
  | .shift b => EncodedRow.shift b
  | .latch => EncodedRow.latch
  | .setBrt b => EncodedRow.setBrt b
  | .setCur l => EncodedRow.setCur l
  | .setWake v => EncodedRow.setWake v
  | .setFan v => EncodedRow.setFan v
  | .setPre v => EncodedRow.setPre v
  | .push0 => EncodedRow.push0
  | .push1 => EncodedRow.push1

/-- A word that decodes matches a row of the decoder table (R46). -/
theorem exists_row_of_decode (w : Word) (i : Instr) (h : decode w = .ok i) :
    ∃ r ∈ opcodeTable, w &&& r.mask = r.value := by
  obtain ⟨r, hrow, hsel, -⟩ := encodedRow i
  have hmem : r ∈ rowOf i := by simp [hrow]
  rw [encode_of_decode w i h] at hsel
  exact ⟨r, List.mem_of_mem_filter hmem, eq_of_beq hsel⟩

/-- A word that no row matches is taken as illegal (R46, R90). -/
theorem fetch_illegal (s : State) (w : Word) (qs : List Request) (hq : s.requests = .word w :: qs)
    (hrows : ∀ r ∈ opcodeTable, w &&& r.mask ≠ r.value) : s.fetch = .illegal w := by
  cases hd : decode w with
  | ok i =>
    obtain ⟨r, hr, hm⟩ := exists_row_of_decode w i hd
    exact absurd hm (hrows r hr)
  | error e => simp [State.fetch, hq, hd]

/-- Settles O8: the word is taken as illegal, and its request is done once the error is raised. -/
theorem illegalWordChangesNothing : Obligations.IllegalWordChangesNothing := by
  unfold Obligations.IllegalWordChangesNothing
  intro s w qs hq hrows
  have hstep : step s = .next (s.raise (.illegalCommand w)).settle := by
    simp [step, fetch_illegal s w qs hq hrows]
  rw [hstep, settle_word (s.raise (.illegalCommand w)) w qs hq]
  rfl

/-- Settles O44: the width is tested before any line set is made. -/
theorem narrowConstructionIsRefused : Obligations.NarrowConstructionIsRefused := by
  unfold Obligations.NarrowConstructionIsRefused
  intro a answers hn
  exact if_pos hn

end Sys2Proof.Proofs
end

section
/-! Construction's outcomes (70_reset_and_hazards.md R101, R103): the block when every line set is ok, and no block at
the first that fails. -/

namespace Sys2Proof.Proofs

open Sys2Proof Sys2Proof.Machine Sys2Proof.Laws

/-- A wide enough construction whose line sets are all answered ok gives a block in which all are recorded (R101). -/
theorem construct_allOk (a : ConstructArgs) (answers : List Answer) (hn : 4 ≤ a.n)
    (hok : (preConstruction a answers).AllOk (constructionSets a)) :
    construct a answers = .next (recordAll (preConstruction a answers) (okEvents (constructionSets a))) := by
  rw [construct, if_neg (Nat.not_lt.2 hn), runSets_allOk _ _ hok]

/-- A wide enough construction ends without a block at its first failing set, with the events up to that set (R103). -/
theorem construct_failsAt (a : ConstructArgs) (answers : List Answer) (hn : 4 ≤ a.n)
    (pre : List LineSet) (x : LineSet) (post : List LineSet) (c : Cause)
    (hsets : constructionSets a = pre ++ x :: post) (hf : (preConstruction a answers).FailsAt pre x c) :
    construct a answers =
      .fault (.constructionFailed x.line c (okEvents pre ++ [⟨x.line, x.level, .err c⟩])) := by
  rw [construct, if_neg (Nat.not_lt.2 hn), hsets, runSets_failsAt pre x post _ c hf]
  simp [recordAll_eq, preConstruction]

/-- Settles O45: construction is one run of its line sets, and a run is all ok or has a first failing set. -/
theorem failedConstructionLeavesNoBlock : Obligations.FailedConstructionLeavesNoBlock := by
  unfold Obligations.FailedConstructionLeavesNoBlock
  intro a answers hn
  exact ⟨fun hok => ⟨_, construct_allOk a answers hn hok⟩,
    fun pre x post c hsets hf => construct_failsAt a answers hn pre x post c hsets hf,
    allOk_or_failsAt (constructionSets a) (preConstruction a answers)⟩

end Sys2Proof.Proofs
end

section
/-! The command words and the written lines (30_encoding.md R43 to R46, R54): encoder and decoder undo each other, the
decoder table selects the same words, and the assembler takes the well-formed lines. -/

namespace Sys2Proof.Proofs

open Sys2Proof Sys2Proof.Machine Sys2Proof.Laws

/-- Decoding an encoded command: its opcode selects its operand form, which takes its operand byte (R44, R45). -/
theorem decode_encode (i : Instr) : decode (encode i) = .ok i := by
  rw [encode, decode_append]
  cases i with
  | setCur l => cases l <;> rfl
  | setWake v => cases v <;> rfl
  | setFan v => cases v <;> rfl
  | setPre v => cases v <;> rfl
  | enterDot | enterCtrl | shift | latch | setBrt | push0 | push1 => rfl

/-- Settles O1: by the command's operand form. -/
theorem commandWordRoundTrip : Obligations.CommandWordRoundTrip := decode_encode

/-- Settles O2: every operand form fixes the whole operand byte. -/
theorem legalWordIsItsCommandsWord : Obligations.LegalWordIsItsCommandsWord := encode_of_decode

/-- Settles O4: the decoder runs on the eight words. -/
theorem writtenOutWordsDecode : Obligations.WrittenOutWordsDecode := by
  unfold Obligations.WrittenOutWordsDecode
  decide

/-- A row of opcode `v` that masks the operand with `m` asks for that opcode and an operand 0 under the mask. -/
theorem fields_of_masked (w : Word) (v m : Byte) (h : w &&& (0xFF#8 ++ m) = v ++ 0#8) :
    opField w = v ∧ opdField w &&& m = 0 := by
  rw [← fields_append w, append_and, append_inj] at h
  obtain ⟨hop, hopd⟩ := h
  exact ⟨(BitVec.and_allOnes (x := opField w)).symm.trans hop, hopd⟩

/-- The zero form takes what a row that masks the whole operand selects. -/
theorem zeroForm_of_masked (op opd : Byte) (f : Instr) (h : opd &&& 0xFF = 0) :
    zeroForm op opd f = .ok f :=
  zeroForm_ok.2 ⟨(BitVec.and_allOnes (x := opd)).symm.trans h, rfl⟩

/-- The lvl2 form takes what a row that masks operand bits 7:2 selects. -/
theorem lvl2Form_of_masked (op opd : Byte) (f : PeakLevel → Instr) (h : opd &&& 0xFC = 0) :
    ∃ l, lvl2Form op opd f = .ok (f l) := by
  have hrange : ∀ b : Byte, b &&& 0xFC = 0 → b = 0 ∨ b = 1 ∨ b = 2 ∨ b = 3 := by decide
  rcases hrange opd h with rfl | rfl | rfl | rfl
  · exact ⟨.ma40, rfl⟩
  · exact ⟨.ma64, rfl⟩
  · exact ⟨.ma93, rfl⟩
  · exact ⟨.ma128, rfl⟩

/-- The bit1 form takes what a row that masks operand bits 7:1 selects. -/
theorem bit1Form_of_masked (op opd : Byte) (f g : Instr) (h : opd &&& 0xFE = 0) :
    ∃ i, bit1Form op opd f g = .ok i ∧ (i = f ∨ i = g) := by
  have hrange : ∀ b : Byte, b &&& 0xFE = 0 → b = 0 ∨ b = 1 := by decide
  rcases hrange opd h with rfl | rfl
  · exact ⟨f, rfl, .inl rfl⟩
  · exact ⟨g, rfl, .inr rfl⟩

/-- A word that a row of the decoder table selects decodes to a command of that row (R46). -/
theorem decode_of_selects (r : OpcodeRow) (hr : r ∈ opcodeTable) (w : Word) (h : w &&& r.mask = r.value) :
    ∃ i, decode w = .ok i ∧ mnemonicOf i = r.mnemonic := by
  have hzero : ∀ v f, w &&& (0xFF#8 ++ 0xFF#8) = v ++ 0#8 → decodeFields v (opdField w) = zeroForm v (opdField w) f →
      decode w = .ok f := by
    intro v f h hform
    obtain ⟨hop, hopd⟩ := fields_of_masked w v 0xFF h
    rw [decode, hop, hform, zeroForm_of_masked _ _ _ hopd]
  have hbyte : ∀ v f, w &&& (0xFF#8 ++ 0x00#8) = v ++ 0#8 → decodeFields v (opdField w) = .ok f → decode w = .ok f := by
    intro v f h hform
    obtain ⟨hop, -⟩ := fields_of_masked w v 0x00 h
    rw [decode, hop, hform]
  have hbit : ∀ v f g, w &&& (0xFF#8 ++ 0xFE#8) = v ++ 0#8 →
      decodeFields v (opdField w) = bit1Form v (opdField w) f g → ∃ i, decode w = .ok i ∧ (i = f ∨ i = g) := by
    intro v f g h hform
    obtain ⟨hop, hopd⟩ := fields_of_masked w v 0xFE h
    rw [decode, hop, hform]
    exact bit1Form_of_masked _ _ f g hopd
  simp only [opcodeTable, List.mem_cons, List.not_mem_nil, or_false] at hr
  rcases hr with rfl | rfl | rfl | rfl | rfl | rfl | rfl | rfl | rfl | rfl | rfl
  · exact ⟨_, hzero 0x01 .enterDot h rfl, rfl⟩
  · exact ⟨_, hzero 0x02 .enterCtrl h rfl, rfl⟩
  · exact ⟨_, hbyte 0x03 (.shift _) h rfl, rfl⟩
  · exact ⟨_, hzero 0x04 .latch h rfl, rfl⟩
  · exact ⟨_, hbyte 0x10 (.setBrt _) h rfl, rfl⟩
  · obtain ⟨hop, hopd⟩ := fields_of_masked w 0x11 0xFC h
    obtain ⟨l, hl⟩ := lvl2Form_of_masked 0x11 _ .setCur hopd
    exact ⟨.setCur l, by rw [decode, hop]; exact hl, rfl⟩
  · obtain ⟨i, hi, rfl | rfl⟩ := hbit 0x12 (.setWake .sleep) (.setWake .wake) h rfl <;> exact ⟨_, hi, rfl⟩
  · obtain ⟨i, hi, rfl | rfl⟩ := hbit 0x13 (.setFan .serial) (.setFan .simultaneous) h rfl <;> exact ⟨_, hi, rfl⟩
  · obtain ⟨i, hi, rfl | rfl⟩ := hbit 0x14 (.setPre .direct) (.setPre .div8) h rfl <;> exact ⟨_, hi, rfl⟩
  · exact ⟨_, hzero 0x20 .push0 h rfl, rfl⟩
  · exact ⟨_, hzero 0x21 .push1 h rfl, rfl⟩

/-- A row of the decoder table selects a legal word exactly when it bears the mnemonic of its command. -/
theorem selects_iff_mnemonic (r : OpcodeRow) (hr : r ∈ opcodeTable) (w : Word) (i : Instr) (h : decode w = .ok i) :
    w &&& r.mask = r.value ↔ r.mnemonic = mnemonicOf i := by
  constructor
  · intro hsel
    obtain ⟨j, hj, hm⟩ := decode_of_selects r hr w hsel
    obtain rfl : i = j := Except.ok.inj (h.symm.trans hj)
    exact hm.symm
  · intro hm
    obtain ⟨r', hrow, hsel, -⟩ := encodedRow i
    have hmem : r ∈ rowOf i := List.mem_filter.2 ⟨hr, by simp [hm]⟩
    rw [hrow, List.mem_singleton] at hmem
    subst hmem
    rw [encode_of_decode w i h] at hsel
    exact eq_of_beq hsel

/-- Settles O3. -/
theorem opcodeTableSelectsExactlyLegalWords : Obligations.OpcodeTableSelectsExactlyLegalWords := by
  unfold Obligations.OpcodeTableSelectsExactlyLegalWords
  intro w
  cases h : decode w with
  | error e =>
    have hnone : (opcodeTable.filter fun r => w &&& r.mask == r.value) = [] := by
      refine List.filter_eq_nil_iff.2 fun r hr hsel => ?_
      obtain ⟨i, hi, -⟩ := decode_of_selects r hr w (eq_of_beq hsel)
      cases h.symm.trans hi
    rw [hnone]
    rfl
  | ok i =>
    have hrows : (opcodeTable.filter fun r => w &&& r.mask == r.value) = rowOf i := by
      refine List.filter_congr fun r hr => ?_
      rw [Bool.eq_iff_iff, beq_iff_eq, beq_iff_eq]
      exact selects_iff_mnemonic r hr w i h
    obtain ⟨r, hrow, -, -⟩ := encodedRow i
    have hmem : r ∈ rowOf i := by simp [hrow]
    rw [hrows, hrow, List.map_singleton, eq_of_beq (List.mem_filter.1 hmem).2]

/-- The assembler's answer to a line with a number: by the range of the operand's form. -/
theorem assemble_number_iff (m : Mnemonic) (k : Nat) :
    AsmLine.wf ⟨m, some (.number k)⟩ = true ↔ (assemble ⟨m, some (.number k)⟩).map mnemonicOf = some m := by
  cases m with
  | shift | setBrt =>
    by_cases hk : k ≤ 255
    · simp [AsmLine.wf, assemble, asmByte, hk, mnemonicOf]
    · simp [AsmLine.wf, assemble, asmByte, hk]
  | setCur =>
    rcases k with _ | _ | _ | _ | k
    case succ.succ.succ.succ => simp [AsmLine.wf, assemble, asmLevel]
    all_goals decide
  | enterDot | enterCtrl | latch | setWake | setFan | setPre | push0 | push1 => simp [AsmLine.wf, assemble]

/-- The assembler's answer to a line with a name: by the names of the operand's form. -/
theorem assemble_name_iff (m : Mnemonic) (w : OperandName) :
    AsmLine.wf ⟨m, some (.name w)⟩ = true ↔ (assemble ⟨m, some (.name w)⟩).map mnemonicOf = some m := by
  cases m with
  | setCur | setWake | setFan | setPre => cases w <;> decide
  | enterDot | enterCtrl | latch | shift | setBrt | push0 | push1 => simp [AsmLine.wf, assemble, asmByte]

/-- The assembler takes exactly the well-formed lines, and gives each a command of the line's mnemonic (R54). -/
theorem assemble_iff (a : AsmLine) : a.wf = true ↔ ∃ i, assemble a = some i ∧ mnemonicOf i = a.mnemonic := by
  rw [← Option.map_eq_some_iff]
  obtain ⟨m, o⟩ := a
  match o with
  | none => cases m <;> decide
  | some (.number k) => exact assemble_number_iff m k
  | some (.name w) => exact assemble_name_iff m w

/-- A written byte stands for that byte. -/
theorem asmByte_number (b : Byte) : asmByte (.number b.toNat) = some b := by
  rw [asmByte, if_pos (Nat.le_of_lt_succ b.isLt), BitVec.ofNat_toNat, BitVec.setWidth_eq]

/-- Settles O5: the form of the operand decides the line, and each written operand is looked up. -/
theorem assemblerTakesExactlyWellFormedLines : Obligations.AssemblerTakesExactlyWellFormedLines := by
  unfold Obligations.AssemblerTakesExactlyWellFormedLines
  refine ⟨assemble_iff, fun b => ?bytes, ?levels, ?names⟩
  case bytes => simp [assemble, asmByte_number]
  case levels =>
    intro o k h
    simp only [List.mem_cons, Prod.mk.injEq, List.not_mem_nil, or_false] at h
    rcases h with ⟨rfl, rfl⟩ | ⟨rfl, rfl⟩ | ⟨rfl, rfl⟩ | ⟨rfl, rfl⟩ | ⟨rfl, rfl⟩ | ⟨rfl, rfl⟩ | ⟨rfl, rfl⟩ |
      ⟨rfl, rfl⟩ <;> rfl
  case names => decide

end Sys2Proof.Proofs
end

section
/-! What every step keeps (10_state.md R8, 41_control_word_encoder.md R76, 60_exceptions.md R86): the tag and reserved
bits, the lines at their last events, causes of their line's own type, and LIFE but for a completed `begin`. -/

namespace Sys2Proof.Proofs

open Sys2Proof Sys2Proof.Machine Sys2Proof.Laws

/-- The invariant is about N, the code table and the control words only. -/
theorem inv_of_same_registers (s t : State) (h : s.Inv) (hn : t.n = s.n) (hp : t.peakCode = s.peakCode)
    (h0 : t.cw0 = s.cw0) (h1 : t.cw1 = s.cw1) : t.Inv := by
  obtain ⟨width, codes, tag0, tag1, reserved⟩ := h
  constructor
  · rwa [hn]
  · rwa [hp]
  · rwa [h0]
  · rwa [h1]
  · rwa [h1]

/-- The state after Ok of a command that writes no field: its sets have happened, and `PUSH1` has set DOM. -/
theorem okState_of_no_field (i : Instr) (s : State) (hf : fieldWritten i = none) :
    okState i s = { s with
      lines := (okEvents (lineSetsOf s i)).foldl Lines.afterEvent s.lines
      dom := if i = .push1 then dataOut s.cw1 else s.dom
      trace := s.trace ++ okEvents (lineSetsOf s i)
      answers := s.answers.drop (lineSetsOf s i).length
      result := some .ok } := by
  cases i with
  | setBrt | setCur | setWake | setFan | setPre => cases hf
  | enterDot | enterCtrl | shift | latch | push0 | push1 =>
    simp [okState, registerEffect, recordAll_eq, State.returnOk, State.writeDom]

/-- A command that writes no field leaves both control words (R61, R80, R81). -/
theorem exec_keeps_controlWords (i : Instr) (s t : State) (hf : fieldWritten i = none) (h : exec i s = .next t) :
    t.cw0 = s.cw0 ∧ t.cw1 = s.cw1 := by
  rcases exec_next i s t h with ⟨-, rfl⟩ | ⟨pre, x, post, c, -, -, rfl⟩
  · rw [okState_of_no_field i s hf]
    exact ⟨rfl, rfl⟩
  · rw [errState_eq]
    exact ⟨rfl, rfl⟩

@[simp] theorem setField_n (f : Field) (v : Byte) (s : State) : (setField f v s).n = s.n := by
  cases f <;> rfl

@[simp] theorem setField_cw0 (f : Field) (v : Byte) (s : State) :
    (setField f v s).cw0 = if fieldInCw0 f then insertField s.cw0 (fieldLow f) (fieldWidth f) v else s.cw0 := by
  cases f <;> rfl

@[simp] theorem setField_cw1 (f : Field) (v : Byte) (s : State) :
    (setField f v s).cw1 = if fieldInCw0 f then s.cw1 else insertField s.cw1 (fieldLow f) (fieldWidth f) v := by
  cases f <;> rfl

/-- No field holds the tag bit (R15, R16). -/
theorem getLsbD_tag_insertField (f : Field) (r v : Byte) :
    (insertField r (fieldLow f) (fieldWidth f) v).getLsbD 7 = r.getLsbD 7 := by
  have hbelow : fieldLow f + fieldWidth f ≤ 7 := by cases f <;> decide
  rw [getLsbD_insertField _ _ _ _ 7 (by decide), if_neg (by omega)]

/-- No field of CW1 holds a reserved bit (R16). -/
theorem reserved_insertField (f : Field) (hf : fieldInCw0 f = false) (r v : Byte) :
    (insertField r (fieldLow f) (fieldWidth f) v).extractLsb' 2 5 = r.extractLsb' 2 5 := by
  have hbelow : fieldLow f + fieldWidth f ≤ 2 := by
    cases f with
    | brt | peak | wake => cases hf
    | dout | pre => decide
  exact extractLsb'_insertField_apart r v _ _ 2 5 (.inl hbelow) (by decide)

/-- Setting a field keeps the invariant (R76). -/
theorem setField_keeps_inv (f : Field) (v : Byte) (s : State) (h : s.Inv) : (setField f v s).Inv := by
  obtain ⟨width, codes, tag0, tag1, reserved⟩ := h
  constructor
  · rwa [setField_n]
  · rwa [setField_peakCode]
  · rw [setField_cw0]
    split
    · rwa [getLsbD_tag_insertField]
    · exact tag0
  · rw [setField_cw1]
    split
    · exact tag1
    · rwa [getLsbD_tag_insertField]
  · rw [setField_cw1]
    split
    · exact reserved
    next hf => rwa [reserved_insertField f (Bool.eq_false_of_not_eq_true hf)]

/-- Every command keeps the invariant: it sets a field or leaves the control words. -/
theorem exec_keeps_inv (i : Instr) (s t : State) (hs : s.Inv) (h : exec i s = .next t) : t.Inv := by
  cases hf : fieldWritten i with
  | some f =>
    obtain ⟨v, hv⟩ := exec_setter i f hf
    obtain rfl := Host.Outcome.next.inj ((hv s).symm.trans h)
    exact setField_keeps_inv f _ s hs
  | none =>
    obtain ⟨h0, h1⟩ := exec_keeps_controlWords i s t hf h
    obtain ⟨hn, -, hp, -⟩ := exec_frame i s t h
    exact inv_of_same_registers s t hs hn hp h0 h1

/-- Settles O38: a command keeps the invariant, and the host's side of a step writes no register. -/
theorem stepKeepsTagsAndReservedBits : Obligations.StepKeepsTagsAndReservedBits := by
  unfold Obligations.StepKeepsTagsAndReservedBits
  intro s t hs h
  rcases step_cases s t h with ⟨-, rfl⟩ | ⟨w, -, rfl⟩ | ⟨i, u, -, hu, rfl⟩
  · exact inv_of_same_registers s _ hs rfl rfl rfl rfl
  · exact inv_of_same_registers s _ hs (settle_n _) (settle_peakCode _) (settle_cw0 _) (settle_cw1 _)
  · exact inv_of_same_registers u _ (exec_keeps_inv i s u hs hu) (settle_n u) (settle_peakCode u) (settle_cw0 u)
      (settle_cw1 u)

/-- What more events leave on the lines follows from what the earlier ones left (R8). -/
theorem linesAfter_append (es fs : List Event) : linesAfter (es ++ fs) = fs.foldl Lines.afterEvent (linesAfter es) :=
  List.foldl_append

/-- Every command keeps the lines at their last events: they follow the events it appends to TRACE. -/
theorem exec_keeps_linesFollowTrace (i : Instr) (s t : State) (hs : s.LinesFollowTrace) (h : exec i s = .next t) :
    t.LinesFollowTrace := by
  obtain ⟨es, htrace, -, -, hlines⟩ := exec_events i s t h
  unfold State.LinesFollowTrace at hs ⊢
  rw [htrace, linesAfter_append, hlines, hs]

/-- Settles O39: a command's lines follow its events, and the host's side of a step makes none. -/
theorem stepKeepsLinesAtTheirLastEvents : Obligations.StepKeepsLinesAtTheirLastEvents := by
  unfold Obligations.StepKeepsLinesAtTheirLastEvents
  intro s t hs h
  rcases step_cases s t h with ⟨-, rfl⟩ | ⟨w, -, rfl⟩ | ⟨i, u, -, hu, rfl⟩
  · exact hs
  · unfold State.LinesFollowTrace
    rw [settle_lines, settle_trace]
    exact hs
  · unfold State.LinesFollowTrace
    rw [settle_lines, settle_trace]
    exact exec_keeps_linesFollowTrace i s u hs hu

/-- An error the oracle answers has a cause of the line's own type (R5, R60). -/
theorem isCauseOf_of_answerAt (s : State) (j : Nat) (x : LineSet) (c : Cause) (h : s.answerAt j x = .err c) :
    isCauseOf (causeTypeOf s.causes x.line) c = true := by
  have hwithin : ∀ t a, answerWithin t a = .err c → isCauseOf t c = true := by
    intro t a ha
    cases a with
    | ok => cases ha
    | err c' =>
      rw [answerWithin] at ha
      split at ha
      next hc => cases ha; exact hc
      next => cases ha
  exact hwithin _ _ h

/-- Every error event of TRACE has a cause of its line's own type (R86). -/
def CausesTyped (s : State) : Prop :=
  ∀ e ∈ s.trace, ∀ c, e.outcome = .err c → isCauseOf (causeTypeOf s.causes e.line) c = true

@[simp] theorem errState_causes (s : State) (pre : List LineSet) (x : LineSet) (c : Cause) :
    (errState s pre x c).causes = s.causes := by
  rw [errState_eq]

/-- Every command keeps the causes of TRACE typed: its only error event is that of the failing set. -/
theorem exec_keeps_causesTyped (i : Instr) (s t : State) (hs : CausesTyped s) (h : exec i s = .next t) :
    CausesTyped t := by
  have hok : ∀ xs, ∀ e ∈ okEvents xs, e.outcome = .ok := by
    intro xs e he
    obtain ⟨x, -, rfl⟩ := List.mem_map.1 he
    rfl
  intro e he c' hc'
  rcases exec_next i s t h with ⟨-, rfl⟩ | ⟨pre, x, post, c, -, hf, rfl⟩
  · rw [okState_trace, List.mem_append] at he
    rw [okState_causes]
    rcases he with he | he
    · exact hs e he c' hc'
    · rw [hok _ e he] at hc'
      cases hc'
  · rw [errState_eq, List.mem_append, List.mem_append, List.mem_singleton] at he
    rw [errState_causes]
    rcases he with (he | he) | rfl
    · exact hs e he c' hc'
    · rw [hok _ e he] at hc'
      cases hc'
    · cases hc'
      exact isCauseOf_of_answerAt s pre.length x _ hf.2

/-- A line error a command returns has a cause of the line's own type. -/
theorem exec_lineError_cause (i : Instr) (s t : State) (l : Line) (c : Cause) (h : exec i s = .next t)
    (hr : t.result = some (.lineError l c)) : isCauseOf (causeTypeOf t.causes l) c = true := by
  rcases exec_next i s t h with ⟨-, rfl⟩ | ⟨pre, x, post, c', -, hf, rfl⟩
  · cases hr
  · cases hr
    rw [errState_causes]
    exact isCauseOf_of_answerAt s pre.length x c hf.2

/-- Settles O12: the only error event of a command is one the oracle answered. -/
theorem causesAreOfTheirLinesType : Obligations.CausesAreOfTheirLinesType := by
  unfold Obligations.CausesAreOfTheirLinesType
  intro s t h
  rcases step_cases s t h with ⟨hf, rfl⟩ | ⟨w, hf, rfl⟩ | ⟨i, u, hf, hu, rfl⟩
  · exact ⟨fun hs => hs, fun i l c hi => by cases hf.symm.trans hi⟩
  · rw [settle_trace, settle_causes]
    exact ⟨fun hs => hs, fun i l c hi => by cases hf.symm.trans hi⟩
  · rw [settle_trace, settle_causes, settle_result]
    exact ⟨fun hs => exec_keeps_causesTyped i s u hs hu, fun _ l c _ hr => exec_lineError_cause i s u l c hu hr⟩

end Sys2Proof.Proofs
end

section
/-! The step and the host port (10_state.md R14, 30_encoding.md R55, R56, 70_reset_and_hazards.md R105): what a step
makes of a word, of the command of a pseudo-operation, and of an empty queue. -/

namespace Sys2Proof.Proofs

open Sys2Proof Sys2Proof.Machine Sys2Proof.Laws

/-- Settles O10: fetching cannot fail, and every command answers. -/
theorem everyStepGoesOn : Obligations.EveryStepGoesOn := by
  unfold Obligations.EveryStepGoesOn
  intro s
  cases hf : s.fetch with
  | nothing => exact ⟨s.dropRequest, by simp [step, hf]⟩
  | illegal w => exact ⟨(s.raise (.illegalCommand w)).settle, by simp [step, hf]⟩
  | command i =>
    obtain ⟨t, ht⟩ := exec_answers i s
    exact ⟨t.settle, step_command s t i hf ht⟩

/-- Settles O6: the word's request leaves the queue when its command is settled. -/
theorem stepRunsIssuedCommand : Obligations.StepRunsIssuedCommand := by
  unfold Obligations.StepRunsIssuedCommand
  intro s w qs i hq hd
  obtain ⟨t, ht⟩ := exec_answers i s
  obtain ⟨-, -, -, -, -, hreq⟩ := exec_frame i s t ht
  have hfetch : s.fetch = .command i := by simp [State.fetch, hq, hd]
  exact ⟨t, ht, by rw [step_command s t i hfetch ht, settle_word t w qs (hreq.trans hq)]⟩

/-- A step that finds nothing to take drops the first request, if there is one. -/
theorem step_nothing (s : State) (hf : s.fetch = .nothing) : step s = .next s.dropRequest := by
  simp [step, hf]

/-- Settles O9: nothing is fetched, and there is no request to drop. -/
theorem waitsWhileNothingIsIssued : Obligations.WaitsWhileNothingIsIssued := by
  unfold Obligations.WaitsWhileNothingIsIssued
  intro s hq
  rw [step_nothing s (by simp [State.fetch, hq])]
  cases s
  cases hq
  rfl

/-- One command of a pseudo-operation (R56, R105): an error drops the request, Ok counts it up, and Ok of the last
command ends it. -/
theorem step_pseudo (s : State) (op : PseudoOp) (k : Nat) (qs : List Request) (i : Instr) (t : State)
    (hq : s.requests = .pseudo op k :: qs) (hi : (expand s.n op)[k]? = some i) (ht : exec i s = .next t) :
    step s = .next
      (if t.result ≠ some .ok then { t with requests := qs }
       else if k + 1 < (expand s.n op).length then { t with requests := .pseudo op (k + 1) :: qs }
       else { t with requests := qs, life := if op = .beginInit then .active else t.life }) := by
  obtain ⟨hn, -, -, -, -, hreq⟩ := exec_frame i s t ht
  rw [hq] at hreq
  rw [step_command s t i (fetch_pseudo s op k qs i hq hi) ht, ← hn]
  split
  next hr => rw [settle_error t op k qs hreq hr]
  next hr =>
    have hok : t.result = some .ok := not_not.1 hr
    split
    next hk => rw [settle_more t op k qs hreq hok hk]
    next hk => rw [settle_last t op k qs hreq hok hk]

/-- Settles O7: every command answers, and its result decides what follows. -/
theorem pseudoOperationRunsInOrderToFirstError : Obligations.PseudoOperationRunsInOrderToFirstError := by
  unfold Obligations.PseudoOperationRunsInOrderToFirstError
  intro s op k qs i hq hi
  obtain ⟨t, ht⟩ := exec_answers i s
  exact ⟨t, ht, step_pseudo s op k qs i t hq hi ht⟩

/-- Where a pseudo-operation is not under way, a step leaves LIFE. -/
theorem step_life_of_no_pseudo (s t : State) (hq : ∀ op k qs, s.requests ≠ .pseudo op k :: qs)
    (h : step s = .next t) : t.life = s.life := by
  have hsettle : ∀ u : State, u.requests = s.requests → u.settle.life = u.life := by
    intro u hu
    unfold State.settle
    split
    next op k qs hp => exact absurd (hu.symm.trans hp) (hq op k qs)
    next => rfl
  rcases step_cases s t h with ⟨-, rfl⟩ | ⟨w, -, rfl⟩ | ⟨i, u, -, hu, rfl⟩
  · rfl
  · exact hsettle _ rfl
  · obtain ⟨-, hlife, -, -, -, hreq⟩ := exec_frame i s u hu
    exact (hsettle u hreq).trans hlife

/-- A step of a pseudo-operation makes the block Active when it ends a `begin` with Ok, and leaves LIFE otherwise; it
counts the request up only after Ok. -/
theorem step_life_of_pseudo (s t : State) (op : PseudoOp) (k : Nat) (qs : List Request)
    (hq : s.requests = .pseudo op k :: qs) (h : step s = .next t) :
    (t.life = .active ↔ s.life = .active ∨
      (t.result = some .ok ∧ op = .beginInit ∧ k + 1 = (expand s.n .beginInit).length)) ∧
      (t.requests = .pseudo op (k + 1) :: qs → t.result = some .ok) := by
  cases hi : (expand s.n op)[k]? with
  | none =>
    have hlen := List.getElem?_eq_none_iff.1 hi
    rw [step_nothing s (by simp [State.fetch, hq, hi])] at h
    cases h
    refine ⟨⟨.inl, ?_⟩, fun hreq => ?_⟩
    · rintro (hl | ⟨-, rfl, hk⟩)
      · exact hl
      · omega
    · simp [hq] at hreq
  | some i =>
    have hlen := (List.getElem?_eq_some_iff.1 hi).1
    obtain ⟨u, hu⟩ := exec_answers i s
    obtain ⟨-, hlife, -⟩ := exec_frame i s u hu
    rw [step_pseudo s op k qs i u hq hi hu] at h
    split at h
    next hr =>
      cases h
      refine ⟨?_, fun hreq => ?_⟩
      · simp [hlife, hr]
      · simp at hreq
    next hr =>
      have hok : u.result = some .ok := not_not.1 hr
      split at h
      next hk =>
        cases h
        refine ⟨?_, fun _ => hok⟩
        have hnot : ¬(op = .beginInit ∧ k + 1 = (expand s.n .beginInit).length) := by
          rintro ⟨rfl, he⟩
          omega
        simp [hlife, hnot]
      next hk =>
        cases h
        refine ⟨?_, fun _ => hok⟩
        by_cases hop : op = .beginInit
        · subst hop
          have he : k + 1 = (expand s.n .beginInit).length := by omega
          simp [hok, he]
        · simp [hop, hlife]

/-- Settles O49: the last effect of `begin` is that of the step of its last command. -/
theorem pseudoOperationsExpandAsListed : Obligations.PseudoOperationsExpandAsListed := by
  unfold Obligations.PseudoOperationsExpandAsListed
  constructor
  · intro n
    exact ⟨fun _ => rfl, fun _ => rfl, rfl, rfl, rfl, rfl, rfl, rfl, fun _ => rfl, fun _ => rfl, fun _ => rfl, rfl, rfl⟩
  · intro s t k qs hq hk h hr
    obtain ⟨hlife, -⟩ := step_life_of_pseudo s t .beginInit k qs hq h
    exact hlife.2 (.inr ⟨hr, rfl, hk⟩)

/-- Settles O41: by whether a pseudo-operation is under way. -/
theorem lifeBecomesActiveExactlyWhenBeginCompletes : Obligations.LifeBecomesActiveExactlyWhenBeginCompletes := by
  unfold Obligations.LifeBecomesActiveExactlyWhenBeginCompletes
  intro s t h
  by_cases hq : ∃ op k qs, s.requests = .pseudo op k :: qs
  · obtain ⟨op, k, qs, hq⟩ := hq
    obtain ⟨hlife, hcount⟩ := step_life_of_pseudo s t op k qs hq h
    constructor
    · rw [hlife]
      simp [hq]
    · intro op' k' qs' hq'
      rw [hq] at hq'
      cases hq'
      exact hcount
  · have hnone : ∀ op k qs, s.requests ≠ .pseudo op k :: qs := fun op k qs hp => hq ⟨op, k, qs, hp⟩
    constructor
    · simp [step_life_of_no_pseudo s t hnone h, hnone]
    · intro op k qs hp
      exact absurd hp (hnone op k qs)

end Sys2Proof.Proofs
end

section
/-! Construction and reset (70_reset_and_hazards.md R101, R102): the block a construction gives, and that it meets the
invariants. -/

namespace Sys2Proof.Proofs

open Sys2Proof Sys2Proof.Machine Sys2Proof.Laws

/-- Construction leaves DATA Low and CE High; the optional lines are no lines of the block (R101). -/
theorem constructionSets_lines (a : ConstructArgs) (ls : Lines) :
    (okEvents (constructionSets a)).foldl Lines.afterEvent ls = { ls with data := .low, ce := .high } := by
  unfold constructionSets
  cases a.hasBlank <;> cases a.hasOscSel <;> cases a.hasReset <;> rfl

/-- The events of a construction all of whose sets are ok (R101). -/
theorem okEvents_constructionSets (a : ConstructArgs) :
    okEvents (constructionSets a) = [⟨.data, .low, .ok⟩, ⟨.ce, .high, .ok⟩]
      ++ (if a.hasBlank then [⟨.blank, .high, .ok⟩] else [])
      ++ (if a.hasOscSel then [⟨.oscSel, .high, .ok⟩] else [])
      ++ (if a.hasReset then [⟨.reset, .high, .ok⟩] else []) := by
  unfold constructionSets
  cases a.hasBlank <;> cases a.hasOscSel <;> cases a.hasReset <;> rfl

theorem constructionSets_length_le (a : ConstructArgs) : (constructionSets a).length ≤ 5 := by
  unfold constructionSets
  cases a.hasBlank <;> cases a.hasOscSel <;> cases a.hasReset <;> decide

/-- Five ok answers are enough for a construction. -/
theorem preConstruction_allOk (a : ConstructArgs) (answers : List Answer) (h : ∀ k < 5, answers[k]? = some .ok) :
    (preConstruction a answers).AllOk (constructionSets a) := by
  intro j hj
  have hok : (preConstruction a answers).answers[j]? = some .ok :=
    h j (Nat.lt_of_lt_of_le hj (constructionSets_length_le a))
  rw [State.answerAt, hok]
  rfl

/-- Settles O43: what is recorded on top of the state before construction. -/
theorem constructionLeavesResetValues : Obligations.ConstructionLeavesResetValues := by
  unfold Obligations.ConstructionLeavesResetValues
  intro a answers
  constructor
  · intro s h
    obtain ⟨hn, -, rfl⟩ := construct_next a answers s h
    refine ⟨hn, (constructionSets a).length, ?_⟩
    rw [recordAll_eq, constructionSets_lines, ← okEvents_constructionSets, okEvents_length]
    rfl
  · intro hn hok
    exact ⟨_, construct_allOk a answers hn (preConstruction_allOk a answers hok)⟩

/-- Settles O46: construction leaves the reset values, and `State.reset` has them for the free arguments. -/
theorem resetIsAConstruction : Obligations.ResetIsAConstruction := by
  unfold Obligations.ResetIsAConstruction
  obtain ⟨hvalues, hgives⟩ := constructionLeavesResetValues Config.args (List.replicate 5 .ok)
  have hwidth : 4 ≤ Config.args.n := Nat.le_add_right 4 Config.widthAboveFour
  obtain ⟨s, hs⟩ := hgives hwidth (by decide)
  obtain ⟨-, used, rfl⟩ := hvalues s hs
  exact ⟨_, hs⟩

/-- A construction with a bijective code table gives a block that meets the invariant (R76). -/
theorem construct_inv (a : ConstructArgs) (answers : List Answer) (s : State) (hp : a.peakCode.wf = true)
    (h : construct a answers = .next s) : s.Inv := by
  have htag0 : ∀ c : BitVec 2, (0b01001100#8 ||| (c.setWidth 8 <<< 4)).getLsbD 7 = false := by decide
  have htag1 : ∀ d : BitVec 1, (0b10000000#8 ||| ((1 - d).setWidth 8 <<< 1)).getLsbD 7 = true := by decide
  have hreserved : ∀ d : BitVec 1, (0b10000000#8 ||| ((1 - d).setWidth 8 <<< 1)).extractLsb' 2 5 = 0 := by decide
  obtain ⟨hvalues, -⟩ := constructionLeavesResetValues a answers
  obtain ⟨hn, used, rfl⟩ := hvalues s h
  exact ⟨hn, hp, htag0 _, htag1 _, hreserved _⟩

/-- The lines of a constructed block hold what its construction's events leave (R8, R101). -/
theorem construct_linesFollowTrace (a : ConstructArgs) (answers : List Answer) (s : State)
    (h : construct a answers = .next s) : s.LinesFollowTrace := by
  obtain ⟨-, -, rfl⟩ := construct_next a answers s h
  rw [recordAll_eq]
  rfl

/-- The free code table of reset is a bijection (D4). -/
theorem config_peakCode_wf : Config.args.peakCode.wf = true := by
  change PeakCode.wf (if Config.anyCodes.distinct then Config.anyCodes else PeakCode.exampleTable) = true
  split
  next h => exact h
  next => decide

/-- Settles O37: reset is a construction. -/
theorem resetMeetsTheInvariants : Obligations.ResetMeetsTheInvariants := by
  unfold Obligations.ResetMeetsTheInvariants
  obtain ⟨rest, hreset⟩ := resetIsAConstruction
  exact ⟨inv_of_same_registers _ _ (construct_inv _ _ _ config_peakCode_wf hreset) rfl rfl rfl rfl,
    construct_linesFollowTrace Config.args _ { State.reset with answers := rest } hreset,
    fun a answers s hp h => ⟨construct_inv a answers s hp h, construct_linesFollowTrace a answers s h⟩⟩

end Sys2Proof.Proofs
end

section
/-! What a command leaves, in full (40_transfer_engine.md R61 to R65, 42_control_word_push.md R80, R81,
60_exceptions.md R88): the whole state after Ok and after a line error, and what the command does not read. -/

namespace Sys2Proof.Proofs

open Sys2Proof Sys2Proof.Machine Sys2Proof.Laws

/-- The state after a line error, its events in one list (R88). -/
theorem exec_lineError (i : Instr) (s : State) (pre : List LineSet) (x : LineSet) (post : List LineSet) (c : Cause)
    (e : lineSetsOf s i = pre ++ x :: post) (h : s.FailsAt pre x c) :
    exec i s = .next { s with
      lines := ((okEvents pre).foldl Lines.afterEvent s.lines).put x.line .unknown
      trace := s.trace ++ (okEvents pre ++ [⟨x.line, x.level, .err c⟩])
      answers := s.answers.drop (pre.length + 1)
      result := some (.lineError x.line c) } := by
  rw [exec_err i s pre post x c e h, errState_eq, List.append_assoc]

/-- Settles O19: what is recorded up to the failing set. -/
theorem lineErrorEndsCommandAtTheFailingSet : Obligations.LineErrorEndsCommandAtTheFailingSet := by
  unfold Obligations.LineErrorEndsCommandAtTheFailingSet
  intro i s pre post x c e h
  rw [exec_err i s pre post x c e h, errState_eq]
  rfl

/-- Settles O20: by whether all sets of the command are answered ok. -/
theorem commandReturnsOkOrItsFirstError : Obligations.CommandReturnsOkOrItsFirstError := by
  unfold Obligations.CommandReturnsOkOrItsFirstError
  intro i s
  rcases exec_cases i s with ⟨-, h⟩ | ⟨pre, x, post, c, e, hf, -⟩
  · exact ⟨okState i s, _, h, okState_trace i s, .inl ⟨okState_result i s, rfl⟩⟩
  · exact ⟨_, _, exec_lineError i s pre x post c e hf, rfl, .inr ⟨pre, post, x, c, e, rfl, rfl⟩⟩

/-- Settles O13: the setup's three sets, run through or cut short at each. -/
theorem enterDotDrivesItsLines : Obligations.EnterDotDrivesItsLines := by
  unfold Obligations.EnterDotDrivesItsLines
  intro s
  refine ⟨fun hok => ?_, fun c hf => ?_, fun c hf => ?_, fun c hf => ?_⟩
  · rw [exec_ok .enterDot s hok, okState_of_no_field .enterDot s rfl]
    rfl
  · exact exec_lineError .enterDot s [] ⟨.clk, .high⟩ [⟨.rs, .low⟩, ⟨.ce, .low⟩] c rfl hf
  · exact exec_lineError .enterDot s [⟨.clk, .high⟩] ⟨.rs, .low⟩ [⟨.ce, .low⟩] c rfl hf
  · exact exec_lineError .enterDot s [⟨.clk, .high⟩, ⟨.rs, .low⟩] ⟨.ce, .low⟩ [] c rfl hf

/-- Settles O14: the setup's three sets, run through or cut short at each. -/
theorem enterCtrlDrivesItsLines : Obligations.EnterCtrlDrivesItsLines := by
  unfold Obligations.EnterCtrlDrivesItsLines
  intro s
  refine ⟨fun hok => ?_, fun c hf => ?_, fun c hf => ?_, fun c hf => ?_⟩
  · rw [exec_ok .enterCtrl s hok, okState_of_no_field .enterCtrl s rfl]
    rfl
  · exact exec_lineError .enterCtrl s [] ⟨.clk, .high⟩ [⟨.rs, .high⟩, ⟨.ce, .low⟩] c rfl hf
  · exact exec_lineError .enterCtrl s [⟨.clk, .high⟩] ⟨.rs, .high⟩ [⟨.ce, .low⟩] c rfl hf
  · exact exec_lineError .enterCtrl s [⟨.clk, .high⟩, ⟨.rs, .high⟩] ⟨.ce, .low⟩ [] c rfl hf

/-- Settles O16: the latch's two sets, run through or cut short at each. -/
theorem latchRaisesChipEnableThenIdlesClock : Obligations.LatchRaisesChipEnableThenIdlesClock := by
  unfold Obligations.LatchRaisesChipEnableThenIdlesClock
  intro s
  refine ⟨fun hok => ?_, fun c hf => ?_, fun c hf => ?_⟩
  · rw [exec_ok .latch s hok, okState_of_no_field .latch s rfl]
    rfl
  · exact exec_lineError .latch s [] ⟨.ce, .high⟩ [⟨.clk, .low⟩] c rfl hf
  · exact exec_lineError .latch s [⟨.ce, .high⟩] ⟨.clk, .low⟩ [] c rfl hf

/-- A shift's sets are on CLK and DATA (R50). -/
theorem shiftSets_line (b : Byte) : ∀ x ∈ shiftSets b, x.line = .clk ∨ x.line = .data := by
  intro x hx
  obtain ⟨k, -, hk⟩ := List.mem_flatMap.1 hx
  simp only [bitSets, List.mem_cons, List.not_mem_nil, or_false] at hk
  rcases hk with rfl | rfl | rfl <;> simp

/-- The lines the engine commands drive (R61). -/
theorem engine_lineSets_line (i : Instr) (s : State)
    (hi : i = .enterDot ∨ i = .enterCtrl ∨ (∃ b, i = .shift b) ∨ i = .latch) :
    ∀ x ∈ lineSetsOf s i,
      ((i = .enterDot ∨ i = .enterCtrl) ∧ (x.line = .clk ∨ x.line = .rs ∨ x.line = .ce)) ∨
      ((∃ b, i = .shift b) ∧ (x.line = .clk ∨ x.line = .data)) ∨
      (i = .latch ∧ (x.line = .ce ∨ x.line = .clk)) := by
  intro x hx
  rcases hi with rfl | rfl | ⟨b, rfl⟩ | rfl
  · have h : ∀ x ∈ enterDotSets, x.line = .clk ∨ x.line = .rs ∨ x.line = .ce := by decide
    exact .inl ⟨.inl rfl, h x hx⟩
  · have h : ∀ x ∈ enterCtrlSets, x.line = .clk ∨ x.line = .rs ∨ x.line = .ce := by decide
    exact .inl ⟨.inr rfl, h x hx⟩
  · exact .inr (.inl ⟨⟨b, rfl⟩, shiftSets_line b x hx⟩)
  · have h : ∀ x ∈ latchSets, x.line = .ce ∨ x.line = .clk := by decide
    exact .inr (.inr ⟨rfl, h x hx⟩)

/-- A command none of whose sets is on a line leaves the line's level. -/
theorem exec_keeps_level (f : Lines → Level) (l : Line) (hf : ∀ ls m v, m ≠ l → f (Lines.put ls m v) = f ls)
    (i : Instr) (s t : State) (h : exec i s = .next t) (hne : ∀ x ∈ lineSetsOf s i, x.line ≠ l) :
    f t.lines = f s.lines := by
  obtain ⟨es, -, -, hsets, hlines⟩ := exec_events i s t h
  rw [hlines]
  refine foldl_afterEvent_of_ne f l hf es (fun e he => ?_) s.lines
  obtain ⟨x, hx, hl, -⟩ := hsets e he
  rw [hl]
  exact hne x hx

/-- Settles O18: the registers by the frames of a command, the lines and events by the lines of its sets. -/
theorem engineCommandsLeaveRegistersAndOtherLines : Obligations.EngineCommandsLeaveRegistersAndOtherLines := by
  unfold Obligations.EngineCommandsLeaveRegistersAndOtherLines
  intro i s t h hi
  have hfield : fieldWritten i = none := by
    rcases hi with rfl | rfl | ⟨b, rfl⟩ | rfl <;> rfl
  have hpush : ¬(i = .push1 ∧ t.result = some .ok) := by
    rcases hi with rfl | rfl | ⟨b, rfl⟩ | rfl <;> simp
  obtain ⟨h0, h1⟩ := exec_keeps_controlWords i s t hfield h
  have hdom := exec_dom i s t h
  rw [if_neg hpush] at hdom
  obtain ⟨hn, hlife, hp, hd, hc, hreq⟩ := exec_frame i s t h
  obtain ⟨es, htrace, hanswers, hsets, -⟩ := exec_events i s t h
  have hon : ∀ e ∈ es,
      ((i = .enterDot ∨ i = .enterCtrl) ∧ (e.line = .clk ∨ e.line = .rs ∨ e.line = .ce)) ∨
      ((∃ b, i = .shift b) ∧ (e.line = .clk ∨ e.line = .data)) ∨
      (i = .latch ∧ (e.line = .ce ∨ e.line = .clk)) := by
    intro e he
    obtain ⟨x, hx, hl, -⟩ := hsets e he
    rw [hl]
    exact engine_lineSets_line i s hi x hx
  refine ⟨h0, h1, hdom, hn, hlife, hp, hd, hc, hreq, ?setup, ?shift, ?latch, es, htrace, hanswers, hon⟩
  case setup =>
    rintro (rfl | rfl)
    · exact exec_keeps_level Lines.data .data put_data_of_ne .enterDot s t h (by decide : ∀ x ∈ enterDotSets, _)
    · exact exec_keeps_level Lines.data .data put_data_of_ne .enterCtrl s t h (by decide : ∀ x ∈ enterCtrlSets, _)
  case shift =>
    rintro ⟨b, rfl⟩
    have hother : ∀ l, l ≠ .clk → l ≠ .data → ∀ x ∈ shiftSets b, x.line ≠ l := by
      rintro _ hclk hdata x hx rfl
      exact (shiftSets_line b x hx).elim hclk hdata
    exact ⟨exec_keeps_level Lines.ce .ce put_ce_of_ne (.shift b) s t h (hother .ce (by decide) (by decide)),
      exec_keeps_level Lines.rs .rs put_rs_of_ne (.shift b) s t h (hother .rs (by decide) (by decide))⟩
  case latch =>
    rintro rfl
    exact ⟨exec_keeps_level Lines.data .data put_data_of_ne .latch s t h (by decide : ∀ x ∈ latchSets, _),
      exec_keeps_level Lines.rs .rs put_rs_of_ne .latch s t h (by decide : ∀ x ∈ latchSets, _)⟩

/-- Settles O36: a push writes no field, and DOM only when `PUSH1` returns Ok. -/
theorem pushesLeaveRegisters : Obligations.PushesLeaveRegisters := by
  unfold Obligations.PushesLeaveRegisters
  intro i s t hi h
  have hfield : fieldWritten i = none := by rcases hi with rfl | rfl <;> rfl
  obtain ⟨h0, h1⟩ := exec_keeps_controlWords i s t hfield h
  obtain ⟨hn, hlife, hp, hd, hc, hreq⟩ := exec_frame i s t h
  obtain ⟨es, htrace, hanswers, -, -⟩ := exec_events i s t h
  refine ⟨h0, h1, hn, hlife, hp, hd, hc, hreq, fun hno => ?_, es, htrace, hanswers⟩
  rw [exec_dom i s t h, if_neg]
  rintro ⟨rfl, hr⟩
  rcases hno with hno | hno
  · cases hno
  · exact hno hr

/-- The line sets of a command do not depend on the lines, LIFE and the requests (R61 to R65, R80, R81). -/
theorem lineSetsOf_of_other_host (i : Instr) (s : State) (ls : Lines) (l : Life) (qs : List Request) :
    lineSetsOf { s with lines := ls, life := l, requests := qs } i = lineSetsOf s i := by
  cases i <;> rfl

/-- Nor does what the oracle answers; so a command from a state that differs in the lines, LIFE and the requests ends
the same way, and gives a state that differs there only. -/
theorem exec_of_other_host (i : Instr) (s t : State) (ls : Lines) (l : Life) (qs : List Request)
    (h : exec i s = .next t) :
    ∃ ls', exec i { s with lines := ls, life := l, requests := qs } =
        .next { t with lines := ls', life := l, requests := qs } ∧ (ls = s.lines → ls' = t.lines) := by
  have hsets := lineSetsOf_of_other_host i s ls l qs
  rcases exec_next i s t h with ⟨hok, rfl⟩ | ⟨pre, x, post, c, e, hf, rfl⟩
  · refine ⟨(okEvents (lineSetsOf s i)).foldl Lines.afterEvent ls, ?_, fun hl => by rw [hl, okState_lines]⟩
    rw [exec_ok i { s with lines := ls, life := l, requests := qs } (by rw [hsets]; exact hok)]
    rw [okState, okState, hsets, recordAll_eq, recordAll_eq]
    cases i <;> rfl
  · refine ⟨((okEvents pre).foldl Lines.afterEvent ls).put x.line .unknown, ?_, fun hl => by rw [hl, errState_eq]⟩
    rw [exec_err i { s with lines := ls, life := l, requests := qs } pre post x c (hsets.trans e) hf, errState_eq,
      errState_eq]

/-- Settles O21: only the lines are changed before the command. -/
theorem commandsDoNotReadLineLevels : Obligations.CommandsDoNotReadLineLevels := by
  unfold Obligations.CommandsDoNotReadLineLevels
  intro i s t ls h
  obtain ⟨-, hlife, -, -, -, hreq⟩ := exec_frame i s t h
  obtain ⟨ls', he, -⟩ := exec_of_other_host i s t ls s.life s.requests h
  have ht : ({ t with lines := ls', life := s.life, requests := s.requests } : State) = { t with lines := ls' } := by
    rw [← hlife, ← hreq]
  exact ⟨ls', he.trans (congrArg _ ht)⟩

/-- Settles O22: only LIFE is changed before the command. -/
theorem commandsDoNotReadLife : Obligations.CommandsDoNotReadLife := by
  unfold Obligations.CommandsDoNotReadLife
  intro i s t l h
  obtain ⟨-, -, -, -, -, hreq⟩ := exec_frame i s t h
  obtain ⟨ls', he, hlines⟩ := exec_of_other_host i s t s.lines l s.requests h
  have ht : ({ t with lines := ls', life := l, requests := s.requests } : State) = { t with life := l } := by
    rw [hlines rfl, ← hreq]
  exact he.trans (congrArg _ ht)

/-- In a block wide enough a push sends at least one copy (R79). -/
theorem one_le_repeatCount (s : State) (hn : 4 ≤ s.n) : 1 ≤ s.repeatCount := by
  rw [repeatCount_eq]
  split <;> omega

/-- Settles O33: the count is computed from DOM and N alone. -/
theorem repeatCountComesFromTheMirror : Obligations.RepeatCountComesFromTheMirror := by
  unfold Obligations.RepeatCountComesFromTheMirror
  intro s hn
  exact ⟨repeatCount_eq s, one_le_repeatCount s hn, fun _ => rfl⟩

/-- A push of at least one copy leaves the lines idle, with RS High and DATA at bit 0 of the word (R80, R81). -/
theorem push_lines (r : Nat) (w : Byte) (ls : Lines) (hr : 1 ≤ r) :
    (okEvents (pushSets r w)).foldl Lines.afterEvent ls =
      ⟨if w.getLsbD 0 then .high else .low, .low, .high, .high⟩ := by
  obtain ⟨k, rfl⟩ := Nat.exists_eq_add_of_le' hr
  exact pushSets_lines k w ls

/-- The state in which `PUSH0` returns Ok (R80). -/
theorem okState_push0 (s : State) (hn : 4 ≤ s.n) :
    okState .push0 s = { s with
      lines := ⟨if s.cw0.getLsbD 0 then .high else .low, .low, .high, .high⟩
      trace := s.trace ++ okEvents (pushSets s.repeatCount s.cw0)
      answers := s.answers.drop (5 + 24 * s.repeatCount)
      result := some .ok } := by
  rw [okState_of_no_field .push0 s rfl]
  simp [lineSetsOf, push_lines _ _ _ (one_le_repeatCount s hn)]

/-- The state in which `PUSH1` returns Ok (R81). -/
theorem okState_push1 (s : State) (hn : 4 ≤ s.n) :
    okState .push1 s = { s with
      lines := ⟨if s.cw1.getLsbD 0 then .high else .low, .low, .high, .high⟩
      dom := dataOut s.cw1
      trace := s.trace ++ okEvents (pushSets s.repeatCount s.cw1)
      answers := s.answers.drop (5 + 24 * s.repeatCount)
      result := some .ok } := by
  rw [okState_of_no_field .push1 s rfl]
  simp [lineSetsOf, push_lines _ _ _ (one_le_repeatCount s hn)]

/-- Settles O31: the sets written out are those of the push. -/
theorem push0SendsRepeatedCopiesOfCw0 : Obligations.Push0SendsRepeatedCopiesOfCw0 := by
  unfold Obligations.Push0SendsRepeatedCopiesOfCw0
  intro s r hn hr sets hok
  obtain rfl := hr.trans (repeatCount_eq s).symm
  rw [exec_ok .push0 s hok, okState_push0 s hn]
  rfl

/-- Settles O32: the sets written out are those of the push, with the count of the old mode. -/
theorem push1SendsCw1AndThenMirrorsIt : Obligations.Push1SendsCw1AndThenMirrorsIt := by
  unfold Obligations.Push1SendsCw1AndThenMirrorsIt
  intro s r hn hr sets hok
  obtain rfl := hr.trans (repeatCount_eq s).symm
  rw [exec_ok .push1 s hok, okState_push1 s hn]
  rfl

end Sys2Proof.Proofs
end

section
/-! Streams of commands that all return Ok (40_transfer_engine.md R60, R61): the line sets they make one after another,
and the state they leave. -/

namespace Sys2Proof.Proofs

open Sys2Proof Sys2Proof.Machine Sys2Proof.Laws

/-- The state after a list of commands, each of which returns Ok. -/
def okRun : List Instr → State → State
  | [], s => s
  | i :: is, s => okRun is (okState i s)

/-- The line sets of a list of commands, each of which returns Ok. -/
def setsOfStream : List Instr → State → List LineSet
  | [], _ => []
  | i :: is, s => lineSetsOf s i ++ setsOfStream is (okState i s)

@[simp] theorem okRun_nil (s : State) : okRun [] s = s := rfl

@[simp] theorem okRun_cons (i : Instr) (is : List Instr) (s : State) : okRun (i :: is) s = okRun is (okState i s) := rfl

@[simp] theorem setsOfStream_nil (s : State) : setsOfStream [] s = [] := rfl

@[simp] theorem setsOfStream_cons (i : Instr) (is : List Instr) (s : State) :
    setsOfStream (i :: is) s = lineSetsOf s i ++ setsOfStream is (okState i s) := rfl

theorem okRun_append (is js : List Instr) (s : State) : okRun (is ++ js) s = okRun js (okRun is s) := by
  induction is generalizing s with
  | nil => rfl
  | cons i is ih => exact ih _

theorem setsOfStream_append (is js : List Instr) (s : State) :
    setsOfStream (is ++ js) s = setsOfStream is s ++ setsOfStream js (okRun is s) := by
  induction is generalizing s with
  | nil => rfl
  | cons i is ih => simp [ih]

/-- A list of commands returns Ok throughout exactly when all its line sets are answered ok. -/
theorem allReturnOk_iff_allOk (is : List Instr) (s : State) : AllReturnOk is s ↔ s.AllOk (setsOfStream is s) := by
  induction is generalizing s with
  | nil => exact iff_of_true trivial (allOk_nil s)
  | cons i is ih =>
    have hanswers : ∀ xs, (okState i s).AllOk xs ↔ (recordAll s (okEvents (lineSetsOf s i))).AllOk xs := by
      intro xs
      simp only [State.AllOk, okState_answerAt, answerAt_recordAll, okEvents_length]
    rw [allReturnOk_cons, setsOfStream_cons, allOk_append, ih, hanswers]

/-- Running commands that all return Ok. -/
theorem runCommands_eq_okRun (is : List Instr) (s : State) (h : AllReturnOk is s) : runCommands is s = okRun is s := by
  induction is generalizing s with
  | nil => rfl
  | cons i is ih =>
    obtain ⟨hok, hrest⟩ := (allReturnOk_cons i is s).1 h
    rw [runCommands_cons i is s _ (exec_ok i s hok), okRun_cons, ih _ hrest]

theorem okRun_trace (is : List Instr) (s : State) :
    (okRun is s).trace = s.trace ++ okEvents (setsOfStream is s) := by
  induction is generalizing s with
  | nil => simp
  | cons i is ih => simp [ih]

@[simp] theorem okRun_n (is : List Instr) (s : State) : (okRun is s).n = s.n := by
  induction is generalizing s with
  | nil => rfl
  | cons i is ih => simp [ih]

end Sys2Proof.Proofs
end

section
/-! Well-formed streams (40_transfer_engine.md R66, R67): what their next command can be, that one started in idle
stays well-formed, and that the pseudo-operations are such streams. -/

namespace Sys2Proof.Proofs

open Sys2Proof Sys2Proof.Machine Sys2Proof.Laws

/-- A command that a well-formed stream has between transactions only, and that begins none (R67). -/
def StandsAlone (i : Instr) : Prop := (∃ f, fieldWritten i = some f) ∨ i = .push0 ∨ i = .push1

/-- What the next command of a well-formed stream can be: an address setup or a command that stands alone between
transactions, a shift or the latch inside one. -/
theorem wellFormedFrom_cons (inside : Bool) (i : Instr) (is : List Instr) (h : wellFormedFrom inside (i :: is) = true) :
    (inside = false ∧ (i = .enterDot ∨ i = .enterCtrl) ∧ wellFormedFrom true is = true) ∨
    (inside = false ∧ StandsAlone i ∧ wellFormedFrom false is = true) ∨
    (inside = true ∧ (∃ b, i = .shift b) ∧ wellFormedFrom true is = true) ∨
    (inside = true ∧ i = .latch ∧ wellFormedFrom false is = true) := by
  cases inside with
  | false =>
    cases i with
    | enterDot => exact .inl ⟨rfl, .inl rfl, h⟩
    | enterCtrl => exact .inl ⟨rfl, .inr rfl, h⟩
    | setBrt | setCur | setWake | setFan | setPre => exact .inr (.inl ⟨rfl, .inl ⟨_, rfl⟩, h⟩)
    | push0 => exact .inr (.inl ⟨rfl, .inr (.inl rfl), h⟩)
    | push1 => exact .inr (.inl ⟨rfl, .inr (.inr rfl), h⟩)
    | shift | latch => cases h
  | true =>
    cases i with
    | shift b => exact .inr (.inr (.inl ⟨rfl, ⟨b, rfl⟩, h⟩))
    | latch => exact .inr (.inr (.inr ⟨rfl, rfl, h⟩))
    | enterDot | enterCtrl | setBrt | setCur | setWake | setFan | setPre | push0 | push1 => cases h

theorem phase_idle_iff (ls : Lines) : ls.phase = .idle ↔ ls.ce = .high ∧ ls.clk = .low := by
  obtain ⟨d, k, c, s⟩ := ls
  cases c <;> cases k <;> cases s <;> simp [Lines.phase]

/-- A push leaves CE High and CLK Low, and DATA known where it was, for any number of copies (R66, R80). -/
theorem pushSets_lines_idle (r : Nat) (w : Byte) (ls : Lines) :
    ((okEvents (pushSets r w)).foldl Lines.afterEvent ls).ce = .high ∧
      ((okEvents (pushSets r w)).foldl Lines.afterEvent ls).clk = .low ∧
      (ls.data ≠ .unknown → ((okEvents (pushSets r w)).foldl Lines.afterEvent ls).data ≠ .unknown) := by
  cases r with
  | zero => exact ⟨rfl, rfl, id⟩
  | succ r =>
    rw [pushSets_lines]
    refine ⟨rfl, rfl, fun _ => ?_⟩
    cases w.getLsbD 0 <;> simp

/-- An encoder command has no line sets (R70). -/
theorem lineSetsOf_setter (i : Instr) (f : Field) (s : State) (hf : fieldWritten i = some f) : lineSetsOf s i = [] := by
  cases i with
  | setBrt | setCur | setWake | setFan | setPre => rfl
  | enterDot | enterCtrl | shift | latch | push0 | push1 => cases hf

/-- A command that stands alone leaves CE High, CLK and DATA as good as they were (R66, R70). -/
theorem okState_lines_of_standsAlone (i : Instr) (s : State) (hi : StandsAlone i) (hce : s.lines.ce = .high) :
    (okState i s).lines.ce = .high ∧ (s.lines.clk = .low → (okState i s).lines.clk = .low) ∧
      (s.lines.data ≠ .unknown → (okState i s).lines.data ≠ .unknown) := by
  rw [okState_lines]
  rcases hi with ⟨f, hf⟩ | rfl | rfl
  · rw [lineSetsOf_setter i f s hf]
    exact ⟨hce, id, id⟩
  · obtain ⟨h1, h2, h3⟩ := pushSets_lines_idle s.repeatCount s.cw0 s.lines
    exact ⟨h1, fun _ => h2, h3⟩
  · obtain ⟨h1, h2, h3⟩ := pushSets_lines_idle s.repeatCount s.cw1 s.lines
    exact ⟨h1, fun _ => h2, h3⟩

theorem transactionsFromIdle_cons (i : Instr) (is : List Instr) (s : State) (h : s.AllOk (lineSetsOf s i)) :
    transactionsFromIdle (i :: is) s =
      (((i != .enterDot && i != .enterCtrl) || s.lines.phase == .idle) && transactionsFromIdle is (okState i s)) := by
  simp [transactionsFromIdle, exec_ok i s h]

/-- From the middle of a well-formed stream, whose lines are idle where no transaction is under way: every address
setup to come is issued from idle, and the lines are idle at the end. -/
theorem wellFormedFrom_idle (is : List Instr) (inside : Bool) (s : State) (hwf : wellFormedFrom inside is = true)
    (hidle : inside = false → s.lines.phase = .idle) (h : AllReturnOk is s) :
    transactionsFromIdle is s = true ∧ (okRun is s).lines.phase = .idle := by
  induction is generalizing inside s with
  | nil =>
    cases inside with
    | false => exact ⟨rfl, hidle rfl⟩
    | true => cases hwf
  | cons i is ih =>
    obtain ⟨hok, hrest⟩ := (allReturnOk_cons i is s).1 h
    rw [transactionsFromIdle_cons i is s hok, okRun_cons, Bool.and_eq_true, and_assoc]
    rcases wellFormedFrom_cons inside i is hwf with
      ⟨rfl, -, hwf'⟩ | ⟨rfl, hi, hwf'⟩ | ⟨rfl, ⟨b, rfl⟩, hwf'⟩ | ⟨rfl, rfl, hwf'⟩
    · exact ⟨by simp [hidle rfl], ih true _ hwf' (fun hf => by cases hf) hrest⟩
    · obtain ⟨hce, hclk⟩ := (phase_idle_iff _).1 (hidle rfl)
      obtain ⟨hce', hclk', -⟩ := okState_lines_of_standsAlone i s hi hce
      exact ⟨by simp [hidle rfl], ih false _ hwf' (fun _ => (phase_idle_iff _).2 ⟨hce', hclk' hclk⟩) hrest⟩
    · exact ⟨rfl, ih true _ hwf' (fun hf => by cases hf) hrest⟩
    · refine ⟨rfl, ih false _ hwf' (fun _ => ?_) hrest⟩
      rw [okState_lines]
      rfl

/-- Settles O52, by induction on the stream from between its transactions. -/
theorem orderedStreamsFromIdleAreWellFormed : Obligations.OrderedStreamsFromIdleAreWellFormed := by
  unfold Obligations.OrderedStreamsFromIdleAreWellFormed
  intro is s hwf hce hclk h
  obtain ⟨hissued, hend⟩ := wellFormedFrom_idle is false s hwf (fun _ => (phase_idle_iff _).2 ⟨hce, hclk⟩) h
  rw [State.issuesWellFormed, hwf, hissued, runCommands_eq_okRun is s h]
  exact ⟨rfl, hend⟩

/-- Shifts go on a transaction, and the latch ends it. -/
theorem wellFormedFrom_shifts_latch (bytes : List Byte) (is : List Instr) :
    wellFormedFrom true (bytes.map .shift ++ .latch :: is) = wellFormedFrom false is := by
  induction bytes with
  | nil => rfl
  | cons b bytes ih => exact ih

/-- A dot frame is a transaction, whatever follows it (R57). -/
theorem wellFormedStream_writeDots_append (bytes : List Byte) (is : List Instr) :
    wellFormedStream (writeDotsCommands bytes ++ is) = wellFormedStream is := by
  rw [writeDotsCommands_eq, List.cons_append, List.append_assoc]
  exact wellFormedFrom_shifts_latch bytes is

theorem wellFormedStream_writeDots (bytes : List Byte) : wellFormedStream (writeDotsCommands bytes) = true :=
  wellFormedFrom_shifts_latch bytes []

/-- The commands of every pseudo-operation are in the order of a well-formed stream. -/
theorem wellFormedStream_expand (n : Nat) (op : PseudoOp) : wellFormedStream (expand n op) = true := by
  cases op with
  | writeDots bytes => exact wellFormedStream_writeDots bytes
  | printColumns bytes => exact wellFormedStream_writeDots bytes
  | clear => exact wellFormedStream_writeDots _
  | beginInit => exact wellFormedStream_writeDots_append _ _
  | setBrightness | setPeakCurrent | setSleep | displaySleep | displayWake | setSerialDataOut
  | setSimultaneousDataOut | setOscillatorPrescaler => rfl

/-- Settles O50: the order is that of the expansion, the idle starts follow from it. -/
theorem pseudoOperationsAreWellFormedStreams : Obligations.PseudoOperationsAreWellFormedStreams := by
  unfold Obligations.PseudoOperationsAreWellFormedStreams
  intro n op
  refine ⟨wellFormedStream_expand n op, fun s hidle h => ?_⟩
  obtain ⟨hce, hclk⟩ := (phase_idle_iff _).1 hidle
  exact (orderedStreamsFromIdleAreWellFormed _ s (wellFormedStream_expand n op) hce hclk h).1

end Sys2Proof.Proofs
end

section
/-! How a well-formed stream is read (20_memory.md R39 to R42): command by command each reading stays the only one, and
has the frame of the transaction under way open. -/

namespace Sys2Proof.Proofs

open Sys2Proof Sys2Proof.Machine Sys2Proof.Laws

/-- A reading stands where the stream does: it has the lines of the block and the frame of the transaction under way,
if one is; DATA is known, and between transactions CE is High. -/
structure StandsAt (r : Reading) (s : State) (cur : Option (Target × List Byte)) : Prop where
  lines : r.lines = s.lines
  frame : r.frame = cur.map fun p => frameOf p.1 p.2
  data : s.lines.data ≠ .unknown
  closed : cur = none → s.lines.ce = .high

/-- One command of a well-formed stream, and the frames it latches: its line sets have one reading, which stands where
the rest of the stream begins. -/
structure ReadOn (r : Reading) (s : State) (i : Instr) (is : List Instr) (cur : Option (Target × List Byte))
    (r' : Reading) (cur' : Option (Target × List Byte)) : Prop where
  reading : r.readAll (okEvents (lineSetsOf s i)) = [r']
  stands : StandsAt r' (okState i s) cur'
  order : wellFormedFrom cur'.isSome is = true
  frames : r'.latched ++ framesOf is (okState i s) cur' = r.latched ++ framesOf (i :: is) s cur
  loose : r'.loose = r.loose

/-- An encoder command latches no frame; the equations after it are those of the other commands. -/
theorem framesOf_setter (i : Instr) (f : Field) (is : List Instr) (s : State) (cur : Option (Target × List Byte))
    (hf : fieldWritten i = some f) (h : s.AllOk (lineSetsOf s i)) :
    framesOf (i :: is) s cur = framesOf is (okState i s) cur := by
  rw [framesOf, exec_ok i s h]
  cases i with
  | setBrt | setCur | setWake | setFan | setPre => rfl
  | enterDot | enterCtrl | shift | latch | push0 | push1 => cases hf

theorem framesOf_enterDot (is : List Instr) (s : State) (cur : Option (Target × List Byte))
    (h : s.AllOk enterDotSets) :
    framesOf (.enterDot :: is) s cur = framesOf is (okState .enterDot s) (some (.dot, [])) := by
  rw [framesOf, exec_ok .enterDot s h]

theorem framesOf_enterCtrl (is : List Instr) (s : State) (cur : Option (Target × List Byte))
    (h : s.AllOk enterCtrlSets) :
    framesOf (.enterCtrl :: is) s cur = framesOf is (okState .enterCtrl s) (some (.control, [])) := by
  rw [framesOf, exec_ok .enterCtrl s h]

theorem framesOf_shift (b : Byte) (is : List Instr) (s : State) (g : Target) (bs : List Byte)
    (h : s.AllOk (shiftSets b)) :
    framesOf (.shift b :: is) s (some (g, bs)) = framesOf is (okState (.shift b) s) (some (g, bs ++ [b])) := by
  rw [framesOf, exec_ok (.shift b) s h]

theorem framesOf_latch (is : List Instr) (s : State) (g : Target) (bs : List Byte) (h : s.AllOk latchSets) :
    framesOf (.latch :: is) s (some (g, bs)) = frameOf g bs :: framesOf is (okState .latch s) none := by
  rw [framesOf, exec_ok .latch s h]

theorem framesOf_push0 (is : List Instr) (s : State) (cur : Option (Target × List Byte))
    (h : s.AllOk (lineSetsOf s .push0)) :
    framesOf (.push0 :: is) s cur =
      frameOf .control (List.replicate s.repeatCount s.cw0) :: framesOf is (okState .push0 s) none := by
  rw [framesOf, exec_ok .push0 s h]

theorem framesOf_push1 (is : List Instr) (s : State) (cur : Option (Target × List Byte))
    (h : s.AllOk (lineSetsOf s .push1)) :
    framesOf (.push1 :: is) s cur =
      frameOf .control (List.replicate s.repeatCount s.cw1) :: framesOf is (okState .push1 s) none := by
  rw [framesOf, exec_ok .push1 s h]

variable {r : Reading} {s : State} {is : List Instr}

/-- A reading with no frame open, CE High and DATA known reads on over a command that stands alone. -/
theorem readOn_standsAlone {i : Instr} (hr : StandsAt r s none) (hi : StandsAlone i)
    (hok : s.AllOk (lineSetsOf s i)) (hwf : wellFormedFrom false is = true) :
    ∃ r', ReadOn r s i is none r' none := by
  obtain ⟨hlines, hframe, hdata, hclosed⟩ := hr
  have hce := hclosed rfl
  obtain ⟨hce', -, hdata'⟩ := okState_lines_of_standsAlone i s hi hce
  have hpush : ∀ n b, lineSetsOf s i = pushSets n b →
      framesOf (i :: is) s none = frameOf .control (List.replicate n b) :: framesOf is (okState i s) none →
      ∃ r', ReadOn r s i is none r' none := by
    intro n b hsets hframes
    have hread := readAll_push n b r hframe (by rw [hlines, hce]) (by rwa [hlines])
    refine ⟨⟨_, none, _, r.loose⟩, by rw [hsets]; exact hread, ⟨?_, rfl, hdata' hdata, fun _ => hce'⟩, hwf, ?_, rfl⟩
    · rw [okState_lines, hsets, hlines]
    · simp [hframes]
  rcases hi with ⟨f, hf⟩ | rfl | rfl
  · have hsets := lineSetsOf_setter i f s hf
    refine ⟨r, by rw [hsets]; rfl, ⟨?_, hframe, hdata' hdata, fun _ => hce'⟩, hwf, ?_, rfl⟩
    · rw [okState_lines, hsets, hlines]
      rfl
    · rw [framesOf_setter i f is s none hf hok]
  · exact hpush s.repeatCount s.cw0 rfl (framesOf_push0 is s none hok)
  · exact hpush s.repeatCount s.cw1 rfl (framesOf_push1 is s none hok)

/-- Each command of a well-formed stream is read on in one way. -/
theorem exists_readOn (i : Instr) (cur : Option (Target × List Byte)) (hr : StandsAt r s cur)
    (hok : s.AllOk (lineSetsOf s i)) (hwf : wellFormedFrom cur.isSome (i :: is) = true) :
    ∃ r' cur', ReadOn r s i is cur r' cur' := by
  have hlines := hr.lines
  have hdata := hr.data
  have hframe := hr.frame
  rcases wellFormedFrom_cons _ i is hwf with
    ⟨hcur, hi, hwf'⟩ | ⟨hcur, hi, hwf'⟩ | ⟨hcur, ⟨b, rfl⟩, hwf'⟩ | ⟨hcur, rfl, hwf'⟩
  · obtain rfl : cur = none := by simpa using hcur
    have hce : r.lines.ce = .high := by rw [hlines, hr.closed rfl]
    rcases hi with rfl | rfl
    · refine ⟨_, some (.dot, []), readAll_enterDot r hframe hce (by rwa [hlines]), ⟨?_, rfl, ?_, nofun⟩, hwf', ?_, rfl⟩
      · rw [okState_lines, hlines]; rfl
      · rw [okState_lines]; exact hdata
      · rw [framesOf_enterDot is s none hok]
    · refine ⟨_, some (.control, []), readAll_enterCtrl r hframe hce (by rwa [hlines]), ⟨?_, rfl, ?_, nofun⟩, hwf', ?_,
        rfl⟩
      · rw [okState_lines, hlines]; rfl
      · rw [okState_lines]; exact hdata
      · rw [framesOf_enterCtrl is s none hok]
  · obtain rfl : cur = none := by simpa using hcur
    obtain ⟨r', h⟩ := readOn_standsAlone hr hi hok hwf'
    exact ⟨r', none, h⟩
  · obtain ⟨⟨g, bs⟩, rfl⟩ := Option.isSome_iff_exists.1 hcur
    refine ⟨_, some (g, bs ++ [b]), readAll_shift r (frameOf g bs) hframe b, ⟨?_, ?_, ?_, nofun⟩, hwf', ?_, rfl⟩
    · rw [okState_shift, hlines]
    · simp [frameOf]
    · rw [okState_shift]; cases b.getLsbD 0 <;> simp
    · rw [framesOf_shift b is s g bs hok]
  · obtain ⟨⟨g, bs⟩, rfl⟩ := Option.isSome_iff_exists.1 hcur
    refine ⟨_, none, readAll_latch r (frameOf g bs) hframe, ⟨?_, rfl, ?_, fun _ => ?_⟩, hwf', ?_, rfl⟩
    · rw [okState_lines, hlines]; rfl
    · rw [okState_lines]; exact hdata
    · rw [okState_lines]; rfl
    · simp [framesOf_latch is s g bs hok]

/-- A well-formed stream, from wherever a reading stands in it, is read in one way: as its frames. -/
theorem readAll_wellFormed (is : List Instr) (s : State) (r : Reading) (cur : Option (Target × List Byte))
    (hwf : wellFormedFrom cur.isSome is = true) (h : AllReturnOk is s) (hr : StandsAt r s cur) :
    r.readAll (okEvents (setsOfStream is s)) =
      [⟨(okRun is s).lines, none, r.latched ++ framesOf is s cur, r.loose⟩] := by
  induction is generalizing s r cur with
  | nil =>
    obtain rfl : cur = none := by cases cur with
      | none => rfl
      | some p => cases hwf
    have hframe : r.frame = none := hr.frame
    simp [Reading.readAll, framesOf, ← hr.lines, ← hframe]
  | cons i is ih =>
    obtain ⟨hok, hrest⟩ := (allReturnOk_cons i is s).1 h
    obtain ⟨r', cur', hread, hstands, hwf', hframes, hloose⟩ := exists_readOn i cur hr hok hwf
    rw [setsOfStream_cons, okEvents_append, readAll_append, hread, okRun_cons, ← hframes, ← hloose,
      ← ih _ r' cur' hwf' hrest hstands]
    simp

/-- Settles O51: from between transactions, with no frame open. -/
theorem wellFormedStreamsAreReadAsTheirFrames : Obligations.WellFormedStreamsAreReadAsTheirFrames := by
  unfold Obligations.WellFormedStreamsAreReadAsTheirFrames
  intro is s r hwf h hlines hframe hce hdata
  rw [runCommands_eq_okRun is s h]
  exact ⟨_, okRun_trace is s, readAll_wellFormed is s r none hwf h ⟨hlines, hframe, hdata, fun _ => hce⟩⟩

/-- The frame of a transaction's shifts and latch carries the bytes shifted so far and those to come. -/
theorem framesOf_shifts_latch (bytes : List Byte) (s : State) (g : Target) (bs : List Byte)
    (h : AllReturnOk (bytes.map .shift ++ [.latch]) s) :
    framesOf (bytes.map .shift ++ [.latch]) s (some (g, bs)) = [frameOf g (bs ++ bytes)] := by
  induction bytes generalizing s bs with
  | nil =>
    obtain ⟨hok, -⟩ := (allReturnOk_cons _ _ s).1 h
    rw [List.map_nil, List.nil_append, framesOf_latch _ s g bs hok, List.append_nil]
    rfl
  | cons b bytes ih =>
    obtain ⟨hok, hrest⟩ := (allReturnOk_cons _ _ s).1 h
    rw [List.map_cons, List.cons_append, framesOf_shift b _ s g bs hok, ih _ _ hrest]
    simp

/-- `write_dots` is one dot frame of its bytes (R57). -/
theorem framesOf_writeDots (bytes : List Byte) (s : State) (h : AllReturnOk (writeDotsCommands bytes) s) :
    framesOf (writeDotsCommands bytes) s none = [frameOf .dot bytes] := by
  rw [writeDotsCommands_eq] at h ⊢
  obtain ⟨hok, hrest⟩ := (allReturnOk_cons _ _ s).1 h
  rw [framesOf_enterDot _ s none hok, framesOf_shifts_latch bytes _ .dot [] hrest]
  rfl

/-- Settles O47: `write_dots` is a well-formed stream of one frame. -/
theorem writeDotsIsOneFrameInArgumentOrder : Obligations.WriteDotsIsOneFrameInArgumentOrder := by
  unfold Obligations.WriteDotsIsOneFrameInArgumentOrder
  intro bytes s
  refine ⟨writeDotsCommands_eq bytes, fun h => ?_⟩
  have hrun := runCommands_eq_okRun (writeDotsCommands bytes) s h
  have htrace := okRun_trace (writeDotsCommands bytes) s
  have hlength := runCommands_writeDots_trace_length bytes s h
  rw [hrun, htrace, List.length_append] at hlength
  refine ⟨okEvents (setsOfStream (writeDotsCommands bytes) s), (congrArg State.trace hrun).trans htrace,
    Nat.add_left_cancel hlength, fun r hlines hframe hce hdata => ?_⟩
  have hread := readAll_wellFormed (writeDotsCommands bytes) s r none (wellFormedStream_writeDots bytes) h
    ⟨hlines, hframe, hdata, fun _ => hce⟩
  rw [framesOf_writeDots bytes s h, ← hrun] at hread
  exact hread

end Sys2Proof.Proofs
end

section
/-! `begin` (70_reset_and_hazards.md R104, R105): the steps of a pseudo-operation all of whose commands return Ok, and
the state `clear` and the two pushes leave. -/

namespace Sys2Proof.Proofs

open Sys2Proof Sys2Proof.Machine Sys2Proof.Laws

/-- Commands do not touch the host's queue. -/
theorem okState_withRequests (i : Instr) (s : State) (qs : List Request) :
    okState i (s.withRequests qs) = (okState i s).withRequests qs := by
  have hsets : lineSetsOf (s.withRequests qs) i = lineSetsOf s i := lineSetsOf_of_other_host i s s.lines s.life qs
  rw [okState, okState, hsets, recordAll_eq, recordAll_eq]
  cases i <;> rfl

theorem okRun_withRequests (is : List Instr) (s : State) (qs : List Request) :
    okRun is (s.withRequests qs) = (okRun is s).withRequests qs := by
  induction is generalizing s with
  | nil => rfl
  | cons i is ih => rw [okRun_cons, okRun_cons, okState_withRequests, ih]

theorem allReturnOk_withRequests (is : List Instr) (s : State) (qs : List Request) (h : AllReturnOk is s) :
    AllReturnOk is (s.withRequests qs) := by
  induction is generalizing s with
  | nil => trivial
  | cons i is ih =>
    have hsets : lineSetsOf (s.withRequests qs) i = lineSetsOf s i := lineSetsOf_of_other_host i s s.lines s.life qs
    obtain ⟨hok, hrest⟩ := (allReturnOk_cons i is s).1 h
    rw [allReturnOk_cons, okState_withRequests, hsets]
    exact ⟨hok, ih _ hrest⟩

theorem runSteps_succ (k : Nat) (s t : State) (h : step s = .next t) : runSteps (k + 1) s = runSteps k t := by
  simp [runSteps, h]

/-- The first of the commands left of a pseudo-operation is the one it takes next; the others are left after it. -/
theorem expand_drop_cons (n : Nat) (op : PseudoOp) (k : Nat) (i : Instr) (is : List Instr)
    (h : (expand n op).drop k = i :: is) :
    (expand n op)[k]? = some i ∧ (expand n op).drop (k + 1) = is ∧ (expand n op).length = k + 1 + is.length := by
  have hget := List.getElem?_drop (xs := expand n op) (i := k) (j := 0)
  have htail := List.tail_drop (l := expand n op) (i := k)
  have hlen := congrArg List.length h
  rw [h] at hget htail
  rw [List.length_drop, List.length_cons] at hlen
  exact ⟨hget.symm, htail.symm, by omega⟩

/-- The step of a command of a pseudo-operation that returns Ok, with `is` left after it. -/
theorem step_pseudo_ok (s : State) (op : PseudoOp) (k : Nat) (qs : List Request) (i : Instr) (is : List Instr)
    (hq : s.requests = .pseudo op k :: qs) (hdrop : (expand s.n op).drop k = i :: is) (hok : s.AllOk (lineSetsOf s i)) :
    step s = .next
      (if is = [] then { okState i s with requests := qs, life := if op = .beginInit then .active else s.life }
       else (okState i s).withRequests (.pseudo op (k + 1) :: qs)) := by
  obtain ⟨hi, -, hlen⟩ := expand_drop_cons s.n op k i is hdrop
  have hmore : k + 1 < (expand s.n op).length ↔ is ≠ [] := by
    rw [← List.length_pos_iff]
    omega
  rw [step_pseudo s op k qs i _ hq hi (exec_ok i s hok), if_neg (by simp)]
  by_cases his : is = []
  · rw [if_neg (by simp [hmore, his]), if_pos his, okState_life]
  · rw [if_pos (hmore.2 his), if_neg his]
    rfl

/-- The steps of what is left of a pseudo-operation, all of it returning Ok (R56, R105). -/
theorem runSteps_pseudo (op : PseudoOp) (qs : List Request) (is : List Instr) (k : Nat) (s : State) (hne : is ≠ [])
    (hq : s.requests = .pseudo op k :: qs) (hdrop : (expand s.n op).drop k = is) (h : AllReturnOk is s) :
    runSteps is.length s =
      { okRun is s with requests := qs, life := if op = .beginInit then .active else s.life } := by
  induction is generalizing k s with
  | nil => exact absurd rfl hne
  | cons i is ih =>
    obtain ⟨hok, hrest⟩ := (allReturnOk_cons i is s).1 h
    obtain ⟨-, hdrop', -⟩ := expand_drop_cons s.n op k i is hdrop
    rw [List.length_cons, runSteps_succ _ s _ (step_pseudo_ok s op k qs i is hq hdrop hok)]
    by_cases his : is = []
    · subst his
      rfl
    · rw [if_neg his, ih (k + 1) _ his rfl (by rw [withRequests_n, okState_n]; exact hdrop')
        (allReturnOk_withRequests is _ _ hrest), okRun_withRequests, withRequests_life, okState_life]
      rfl

/-- The next `m` line sets are answered ok, whatever they are. -/
def OkFor (s : State) (m : Nat) : Prop := ∀ j < m, ∀ x, s.answerAt j x = .ok

/-- A stream for all of whose line sets the oracle says ok returns Ok throughout. -/
theorem allReturnOk_of_okFor (is : List Instr) (s : State) (h : OkFor s (setsOfStream is s).length) :
    AllReturnOk is s :=
  (allReturnOk_iff_allOk is s).2 fun j hj => h j hj _

/-- The line sets of a dot frame's shifts and latch. -/
theorem setsOfStream_shifts_latch (bytes : List Byte) (s : State) :
    setsOfStream (bytes.map .shift ++ [.latch]) s = bytes.flatMap shiftSets ++ latchSets := by
  induction bytes generalizing s with
  | nil => rfl
  | cons b bytes ih =>
    rw [List.map_cons, List.cons_append, setsOfStream_cons, ih, List.flatMap_cons, List.append_assoc]
    rfl

/-- A dot frame of `k` bytes has `5 + 24k` line sets (R57). -/
theorem setsOfStream_writeDots_length (bytes : List Byte) (s : State) :
    (setsOfStream (writeDotsCommands bytes) s).length = 5 + 24 * bytes.length := by
  have hbytes : (bytes.flatMap shiftSets).length = 24 * bytes.length := by
    simp [List.length_flatMap, Nat.mul_comm]
  rw [writeDotsCommands_eq, setsOfStream_cons, setsOfStream_shifts_latch, List.length_append, List.length_append,
    hbytes]
  change 3 + (24 * bytes.length + 2) = _
  omega

/-- Commands that write no field and are no `PUSH1` leave both control words and DOM. -/
theorem okRun_registers (is : List Instr) (s : State) (h : ∀ i ∈ is, fieldWritten i = none ∧ i ≠ .push1) :
    (okRun is s).cw0 = s.cw0 ∧ (okRun is s).cw1 = s.cw1 ∧ (okRun is s).dom = s.dom := by
  induction is generalizing s with
  | nil => exact ⟨rfl, rfl, rfl⟩
  | cons i is ih =>
    obtain ⟨hf, hp⟩ := h i (by simp)
    obtain ⟨h0, h1, hd⟩ := ih (okState i s) fun j hj => h j (by simp [hj])
    rw [okRun_cons, h0, h1, hd, okState_of_no_field i s hf]
    exact ⟨rfl, rfl, if_neg hp⟩

/-- A dot frame has engine commands only. -/
theorem writeDotsCommands_no_field (bytes : List Byte) :
    ∀ i ∈ writeDotsCommands bytes, fieldWritten i = none ∧ i ≠ .push1 := by
  intro i hi
  simp only [writeDotsCommands_eq, List.mem_cons, List.mem_append, List.mem_map, List.not_mem_nil, or_false] at hi
  rcases hi with rfl | ⟨b, -, rfl⟩ | rfl <;> simp [fieldWritten]

/-- The commands of `begin` (R55). -/
theorem expand_begin (n : Nat) : expand n .beginInit = clearCommands n ++ [.push0, .push1] := rfl

/-- `clear` has `5N + 2` commands, so `begin` has two more (R58). -/
theorem expand_begin_length (n : Nat) : (expand n .beginInit).length = 5 * n + 4 := by
  simp [expand_begin, clearCommands, writeDotsCommands_eq, cellColumns]

/-- The registers after `clear` (R61). -/
theorem okRun_clear_registers (s : State) :
    (okRun (clearCommands s.n) s).cw0 = s.cw0 ∧ (okRun (clearCommands s.n) s).cw1 = s.cw1 ∧
      (okRun (clearCommands s.n) s).dom = s.dom :=
  okRun_registers _ s (writeDotsCommands_no_field _)

/-- `begin` makes the line sets of a full image and of two pushes, with the count of the mode it starts in (R104). -/
theorem setsOfStream_begin_length (s : State) :
    (setsOfStream (expand s.n .beginInit) s).length = (5 + 120 * s.n) + 2 * (5 + 24 * s.repeatCount) := by
  obtain ⟨-, -, hdom⟩ := okRun_clear_registers s
  have hcount : (okRun (clearCommands s.n) s).repeatCount = s.repeatCount := by
    rw [repeatCount_eq, repeatCount_eq, hdom, okRun_n]
  have hcount' : (okState .push0 (okRun (clearCommands s.n) s)).repeatCount = s.repeatCount := by
    rw [← hcount, repeatCount_eq, repeatCount_eq, okState_dom, okState_n]
    rfl
  have hclear := setsOfStream_writeDots_length (List.replicate (5 * s.n) 0x00) s
  rw [List.length_replicate] at hclear
  rw [expand_begin, setsOfStream_append, setsOfStream_cons, setsOfStream_cons, setsOfStream_nil, List.length_append,
    List.length_append, List.length_append, lineSetsOf_push_length .push0 _ (.inl rfl),
    lineSetsOf_push_length .push1 _ (.inr rfl), hcount, hcount']
  change (setsOfStream (writeDotsCommands (List.replicate (5 * s.n) 0x00)) s).length + _ = _
  rw [hclear, List.length_nil]
  omega

/-- With enough ok answers `begin` returns Ok throughout. -/
theorem begin_allReturnOk (s : State) (h : OkFor s ((5 + 120 * s.n) + 2 * (5 + 24 * s.repeatCount))) :
    AllReturnOk (expand s.n .beginInit) s :=
  allReturnOk_of_okFor _ s (by rwa [setsOfStream_begin_length])

/-- The registers and the lines after a `begin` whose commands all return Ok (R104). -/
theorem okRun_begin (s : State) (hn : 4 ≤ s.n) :
    (okRun (expand s.n .beginInit) s).cw0 = s.cw0 ∧ (okRun (expand s.n .beginInit) s).cw1 = s.cw1 ∧
      (okRun (expand s.n .beginInit) s).dom = dataOut s.cw1 ∧
      (okRun (expand s.n .beginInit) s).result = some .ok ∧
      (okRun (expand s.n .beginInit) s).lines = ⟨if s.cw1.getLsbD 0 then .high else .low, .low, .high, .high⟩ := by
  obtain ⟨h0, h1, -⟩ := okRun_clear_registers s
  have hn' : 4 ≤ (okRun (clearCommands s.n) s).n := by rwa [okRun_n]
  rw [expand_begin, okRun_append, okRun_cons, okRun_cons, okRun_nil, okState_push1 _ (by rwa [okState_n]),
    okState_push0 _ hn']
  simp [h0, h1]

/-- Settles O42: the steps run the commands, which make all the line sets. -/
theorem beginRunsClearThenBothPushes : Obligations.BeginRunsClearThenBothPushes := by
  unfold Obligations.BeginRunsClearThenBothPushes
  intro s qs r hq hn hr hanswers u
  obtain rfl := hr.trans (repeatCount_eq s).symm
  have hok := begin_allReturnOk s hanswers
  have hu : u = { okRun (expand s.n .beginInit) s with requests := qs, life := .active } := by
    have hne : expand s.n .beginInit ≠ [] := List.cons_ne_nil _ _
    have hsteps := runSteps_pseudo .beginInit qs _ 0 s hne hq rfl hok
    rwa [expand_begin_length] at hsteps
  have htrace : u.trace.length = s.trace.length + ((5 + 120 * s.n) + 2 * (5 + 24 * s.repeatCount)) := by
    rw [hu]
    change (okRun (expand s.n .beginInit) s).trace.length = _
    rw [okRun_trace, List.length_append, okEvents_length, setsOfStream_begin_length]
  obtain ⟨h0, h1, hd, hres, hl⟩ := okRun_begin s hn
  refine ⟨by rw [hu], by rw [hu]; exact hres, by rw [hu], by rw [hu]; exact h0, by rw [hu]; exact h1,
    by rw [hu]; exact okRun_n _ s, by rw [hu]; exact hd, by rw [hu]; exact hl, htrace, fun hserial => ?_⟩
  rw [htrace, repeatCount_eq, if_pos hserial]
  omega

end Sys2Proof.Proofs
end

section
/-! What a step makes of what is known of the display (60_exceptions.md R89, R99, 70_reset_and_hazards.md R108 to R112):
errors leave it unknown, misordered streams leave nothing, and only a completed `begin` makes it known. -/

namespace Sys2Proof.Proofs

open Sys2Proof Sys2Proof.Machine Sys2Proof.Laws

/-- The view after a step that takes a command: the command's own effect, unless it completes a repairing `begin`. -/
theorem watch_command (d : Display) (s t : State) (i : Instr) (hf : s.fetch = .command i) (h : exec i s = .next t) :
    d.watch s =
      if (({ d with repairing := d.inBegin s } : Display).afterCommand i s t).repairing && isLastOfBegin s then
        .repaired t
      else ({ d with repairing := d.inBegin s } : Display).afterCommand i s t := by
  simp only [Display.watch, hf, h]

/-- A step that takes no command leaves the view. -/
theorem watch_of_no_command (d : Display) (s : State) (hf : ∀ i, s.fetch ≠ .command i) : d.watch s = d := by
  unfold Display.watch
  split
  next => rfl
  next => rfl
  next i hi => exact absurd hi (hf i)

/-- An encoder command returns Ok (R70). -/
theorem exec_setter_result (i : Instr) (f : Field) (s t : State) (hf : fieldWritten i = some f)
    (h : exec i s = .next t) : t.result = some .ok := by
  obtain ⟨v, hv⟩ := exec_setter i f hf
  obtain rfl := Host.Outcome.next.inj ((hv s).symm.trans h)
  cases f <;> rfl

/-- A command that did not return Ok leaves nothing known of the configuration, and no `begin` under way. -/
theorem afterCommand_of_not_ok (d : Display) (i : Instr) (s t : State) (h : exec i s = .next t)
    (hr : t.result ≠ some .ok) :
    (d.afterCommand i s t).cw0 = none ∧ (d.afterCommand i s t).cw1 = none ∧ (d.afterCommand i s t).mode = none ∧
      (d.afterCommand i s t).ready = false ∧ (d.afterCommand i s t).repairing = false ∧
      (i = .push1 → (d.afterCommand i s t).inStep = false) := by
  rcases afterCommand_cases d s t i with ⟨h0, h1, hm, hready, hrep, hstep⟩ | ⟨⟨f, hf⟩ | hok, -⟩
  · have hno : d.goesOn t = false := by simp [Display.goesOn, hr]
    rw [hno] at hrep
    exact ⟨h0, h1, hm, hready, Bool.eq_false_of_not_eq_true fun hb => Bool.noConfusion (hrep hb), hstep⟩
  · exact absurd (exec_setter_result i f s t hf h) hr
  · exact absurd hok hr

/-- Settles O56: a command that did not return Ok leaves no `begin` to complete. -/
theorem lineErrorLeavesTheDisplayUnknown : Obligations.LineErrorLeavesTheDisplayUnknown := by
  unfold Obligations.LineErrorLeavesTheDisplayUnknown
  intro s t i d l c hf hstep hr
  obtain ⟨u, hu⟩ := exec_answers i s
  obtain rfl := Host.Outcome.next.inj ((step_command s u i hf hu).symm.trans hstep)
  rw [settle_result] at hr
  obtain ⟨h0, h1, hm, hready, hrep, hinStep⟩ :=
    afterCommand_of_not_ok { d with repairing := d.inBegin s } i s u hu (by simp [hr])
  rw [watch_command d s u i hf hu, hrep]
  exact ⟨hready, h0, h1, hm, hinStep⟩

/-- A view that is not ready knows nothing of the configuration (R102, R112). -/
def UnknownUntilReady (d : Display) : Prop := d.ready = false → d.cw0 = none ∧ d.cw1 = none ∧ d.mode = none

/-- No command's own effect makes a view ready, and one that is not ready stays without knowledge. -/
theorem afterCommand_of_not_ready (d : Display) (i : Instr) (s t : State) (hd : UnknownUntilReady d) :
    UnknownUntilReady (d.afterCommand i s t) ∧ (d.ready = false → (d.afterCommand i s t).ready = false) := by
  rcases afterCommand_cases d s t i with ⟨h0, h1, hm, hready, -, -⟩ | ⟨-, h | ⟨g, h⟩ | ⟨hready, -, ⟨-, h⟩ | ⟨-, h⟩⟩⟩
  · exact ⟨fun _ => ⟨h0, h1, hm⟩, fun _ => hready⟩
  · rw [h]
    exact ⟨hd, id⟩
  · rw [h]
    exact ⟨hd, id⟩
  · have hno : (d.takeCw0 s.cw0).ready ≠ false := by simp [hready]
    rw [h]
    exact ⟨fun hf => absurd hf hno, fun hf => by simp [hready] at hf⟩
  · have hno : (d.takeCw1 s.cw1).ready ≠ false := by simp [hready]
    rw [h]
    exact ⟨fun hf => absurd hf hno, fun hf => by simp [hready] at hf⟩

theorem isLastOfBegin_iff (s : State) :
    isLastOfBegin s = true ↔
      ∃ k qs, s.requests = .pseudo .beginInit k :: qs ∧ k + 1 = (expand s.n .beginInit).length := by
  unfold isLastOfBegin
  split
  next k qs hq => simp [hq]
  next hno =>
    refine ⟨fun h => (by cases h), ?_⟩
    rintro ⟨k, qs, hq, -⟩
    exact absurd hq (hno k qs)

/-- Settles O57: no command's own effect makes the view ready, so only a completed `begin` does. -/
theorem displayStaysUnknownUntilBeginCompletes : Obligations.DisplayStaysUnknownUntilBeginCompletes := by
  unfold Obligations.DisplayStaysUnknownUntilBeginCompletes
  intro s d hd
  by_cases hcommand : ∃ i, s.fetch = .command i
  · obtain ⟨i, hf⟩ := hcommand
    obtain ⟨u, hu⟩ := exec_answers i s
    obtain ⟨hkept, hnot⟩ := afterCommand_of_not_ready { d with repairing := d.inBegin s } i s u hd
    rw [watch_command d s u i hf hu]
    split
    next hlast =>
      obtain ⟨hrep, hlast⟩ := Bool.and_eq_true_iff.1 hlast
      obtain ⟨k, qs, hq, hk⟩ := (isLastOfBegin_iff s).1 hlast
      have hok : u.result = some .ok := by
        by_contra hno
        obtain ⟨-, -, -, -, hrep', -⟩ := afterCommand_of_not_ok { d with repairing := d.inBegin s } i s u hu hno
        rw [hrep] at hrep'
        cases hrep'
      refine ⟨fun hready => (by cases hready), fun t hstep _ _ => ?_⟩
      obtain rfl := Host.Outcome.next.inj ((step_command s u i hf hu).symm.trans hstep)
      obtain ⟨hlife, -⟩ := step_life_of_pseudo s u.settle .beginInit k qs hq hstep
      rw [settle_result] at hlife ⊢
      exact ⟨hlife.2 (.inr ⟨hok, rfl, hk⟩), hok, k, qs, hq, hk⟩
    next =>
      refine ⟨hkept, fun t _ hready hready' => ?_⟩
      rw [hnot hready] at hready'
      cases hready'
  · rw [watch_of_no_command d s fun i hi => hcommand ⟨i, hi⟩]
    refine ⟨hd, fun t _ hready hready' => ?_⟩
    rw [hready] at hready'
    cases hready'

/-- A command that no transaction has inside it leaves nothing known there (R67, R108 item 3). -/
theorem afterCommand_inside_transaction (d : Display) (i : Instr) (s t : State)
    (hstage : (∃ f, d.stage = .dotFrame f) ∨ d.stage = .ctrlFrame)
    (hi : (∃ g, fieldWritten i = some g) ∨ i = .push0 ∨ i = .push1 ∨ i = .enterDot ∨ i = .enterCtrl) :
    d.afterCommand i s t = .lose t := by
  have hsetter : ∀ g, fieldWritten i = some g → d.afterCommand i s t = d.afterSetter t := by
    intro g hg
    cases i with
    | setBrt | setCur | setWake | setFan | setPre => rfl
    | enterDot | enterCtrl | shift | latch | push0 | push1 => cases hg
  rcases hi with ⟨g, hg⟩ | rfl | rfl | rfl | rfl
  · rw [hsetter g hg]
    rcases hstage with ⟨f, h⟩ | h <;> simp [Display.afterSetter, h]
  · rcases hstage with ⟨f, h⟩ | h <;> simp [Display.afterCommand, Display.afterPush0, h]
  · rcases hstage with ⟨f, h⟩ | h <;> simp [Display.afterCommand, Display.afterPush1, h]
  · rcases hstage with ⟨f, h⟩ | h <;> simp [Display.afterCommand, Display.afterEnter, h]
  · rcases hstage with ⟨f, h⟩ | h <;> simp [Display.afterCommand, Display.afterEnter, h]

/-- Settles O58: in each situation the view is lost. -/
theorem streamsWithoutDeviceEffectLeaveNothingKnown : Obligations.StreamsWithoutDeviceEffectLeaveNothingKnown := by
  unfold Obligations.StreamsWithoutDeviceEffectLeaveNothingKnown
  intro i s t d _ h
  change d.afterCommand i s t = .lose t
  rcases h with ⟨hd, ⟨b, rfl⟩ | rfl⟩ | ⟨hd, hi⟩ | ⟨⟨f, hd⟩, hr, b, rfl, hb⟩ | ⟨hd | hd, rfl, hce⟩ | ⟨hd, rfl⟩
  · simp [Display.afterCommand, Display.afterShift, hd]
  · simp [Display.afterCommand, Display.afterLatch, hd]
  · exact afterCommand_inside_transaction d i s t hd hi
  · simp [Display.afterCommand, Display.afterShift, hd, hr, hb]
  · simp [Display.afterCommand, Display.afterLatch, hd, hce]
  · simp [Display.afterCommand, Display.afterLatch, hd, hce]
  · simp [Display.afterCommand, Display.afterPush1, hd]

/-- In a frame that a line error left open every command but `PUSH1` leaves what the error left (R109). -/
theorem afterCommand_stray (d : Display) (i : Instr) (s t : State) (hd : d.stage = .stray) (hi : i ≠ .push1) :
    d.afterCommand i s t = d.spoil t := by
  cases i with
  | enterDot | enterCtrl => simp [Display.afterCommand, Display.afterEnter, hd]
  | shift b => simp [Display.afterCommand, Display.afterShift, hd]
  | latch => simp [Display.afterCommand, Display.afterLatch, hd]
  | setBrt | setCur | setWake | setFan | setPre => simp [Display.afterCommand, Display.afterSetter, hd]
  | push0 => simp [Display.afterCommand, Display.afterPush0, hd]
  | push1 => exact absurd rfl hi

/-- Settles O59: in each situation the view is spoilt, which leaves `inStep`. -/
theorem abortedTransactionsLeaveTheFanOutMatch : Obligations.AbortedTransactionsLeaveTheFanOutMatch := by
  unfold Obligations.AbortedTransactionsLeaveTheFanOutMatch
  intro i s t d _ h e
  have he : e = d.spoil t := by
    change d.afterCommand i s t = d.spoil t
    rcases h with ⟨l, c, hr, hcase⟩ | ⟨hd, hi⟩
    · rcases hcase with ⟨rfl | rfl | rfl, hd⟩ | ⟨⟨b, rfl⟩, ⟨f, hd⟩ | hd⟩ | ⟨rfl, hd | ⟨hd | hd, hce⟩⟩
      · simp [Display.afterCommand, Display.afterEnter, hd, hr]
      · simp [Display.afterCommand, Display.afterEnter, hd, hr]
      · simp [Display.afterCommand, Display.afterPush0, hd, hr]
      · simp [Display.afterCommand, Display.afterShift, hd, hr]
      · simp [Display.afterCommand, Display.afterShift, hd, hr]
      · simp [Display.afterCommand, Display.afterLatch, hd, hr]
      · simp [Display.afterCommand, Display.afterLatch, hd, hr, hce]
      · simp [Display.afterCommand, Display.afterLatch, hd, hce]
    · exact afterCommand_stray d i s t hd hi
  rw [he]
  exact ⟨rfl, rfl, rfl, rfl, rfl, rfl⟩

end Sys2Proof.Proofs
end

section
/-! Pushes that reach every device (42_control_word_push.md R85, 20_memory.md R34): on the wire and in the view, once
and repeated. -/

namespace Sys2Proof.Proofs

open Sys2Proof Sys2Proof.Machine Sys2Proof.Laws

/-- A push from `s` reaches every device: between transactions, CE High, DATA known, and its count right (R85). -/
structure PushReaches (d : Display) (s : State) : Prop where
  between : d.stage = .between
  ce : s.lines.ce = .high
  data : s.lines.data ≠ .unknown
  count : d.reaches s = true

/-- The block is Active and its display repaired (R112). -/
structure Repaired (d : Display) (s : State) : Prop where
  ready : d.ready = true
  active : s.life = .active

variable {d : Display} {s t : State}

theorem PushReaches.opensRegular (h : PushReaches d s) : opensRegular s = true := by
  simp [Machine.opensRegular, h.ce, h.data]

/-- Once a `begin` has completed, every device takes the word; before that nothing is made known (R112). -/
theorem afterPush0_ok (hd : PushReaches d s) (hr : t.result = some .ok) :
    d.afterPush0 s t = if d.ready && s.life == .active then d.takeCw0 s.cw0 else d := by
  simp [Display.afterPush0, hd.between, hr, hd.opensRegular, hd.count]

theorem afterPush1_ok (hd : PushReaches d s) (hr : t.result = some .ok) :
    d.afterPush1 s t = if d.ready && s.life == .active then d.takeCw1 s.cw1 else d := by
  simp [Display.afterPush1, hd.between, hr, hd.opensRegular, hd.count]

theorem afterPush0_repaired (hd : PushReaches d s) (ha : Repaired d s) (hr : t.result = some .ok) :
    d.afterPush0 s t = d.takeCw0 s.cw0 := by
  simp [afterPush0_ok hd hr, ha.ready, ha.active]

theorem afterPush1_repaired (hd : PushReaches d s) (ha : Repaired d s) (hr : t.result = some .ok) :
    d.afterPush1 s t = d.takeCw1 s.cw1 := by
  simp [afterPush1_ok hd hr, ha.ready, ha.active]

/-- A view in step with the chain's mode has the right count for a width of whole devices (R79, R85). -/
theorem reaches_of_inStep (hn : s.n % 4 = 0) (hd : d.inStep = true) : d.reaches s = true := by
  simp [Display.reaches, deviceChars, hn, hd]

/-- After a push of a chain it reaches, the same lines are ready for the next (R66, R80). -/
theorem push_keeps_pushReaches {e : Display} (i : Instr) (hi : i = .push0 ∨ i = .push1) (hd : PushReaches d s)
    (hstage : e.stage = d.stage) (hcount : e.reaches (okState i s) = true) : PushReaches e (okState i s) := by
  obtain ⟨hce, -, hdata⟩ := okState_lines_of_standsAlone i s (.inr hi) hd.ce
  exact ⟨hstage.trans hd.between, hce, hdata hd.data, hcount⟩

/-- Settles O54: the second push finds the word held. -/
theorem repeatedPushLeavesTheDisplay : Obligations.RepeatedPushLeavesTheDisplay := by
  unfold Obligations.RepeatedPushLeavesTheDisplay
  intro i s t u d hi hlife _ hn hready hstep hstage hce hdata ht hrt hu hru
  obtain ⟨-, rfl⟩ := exec_next_ok i s t ht hrt
  have hd : PushReaches d s := ⟨hstage, hce, hdata, reaches_of_inStep hn hstep⟩
  have ha : Repaired d s := ⟨hready, hlife⟩
  have hn' : (okState i s).n % 4 = 0 := by rwa [okState_n]
  have hlife' : (okState i s).life = .active := by rwa [okState_life]
  rcases hi with rfl | rfl
  · have hd' : PushReaches (d.takeCw0 s.cw0) (okState .push0 s) :=
      push_keeps_pushReaches .push0 (.inl rfl) hd (takeCw0_stage d s.cw0) (reaches_of_inStep hn' (by simpa))
    obtain ⟨hcw0, -⟩ := exec_keeps_controlWords .push0 s _ rfl ht
    change (d.afterPush0 s _).afterPush0 _ _ = d.afterPush0 s _
    rw [afterPush0_repaired hd ha hrt, afterPush0_repaired hd' ⟨by simpa, hlife'⟩ hru, hcw0, takeCw0_takeCw0]
  · have hd' : PushReaches (d.takeCw1 s.cw1) (okState .push1 s) :=
      push_keeps_pushReaches .push1 (.inr rfl) hd rfl (reaches_of_inStep hn' rfl)
    obtain ⟨-, hcw1⟩ := exec_keeps_controlWords .push1 s _ rfl ht
    change (d.afterPush1 s _).afterPush1 _ _ = d.afterPush1 s _
    rw [afterPush1_repaired hd ha hrt, afterPush1_repaired hd' ⟨hready, hlife'⟩ hru, hcw1, takeCw1_takeCw1]

/-- A word's command belongs to no `begin`. -/
theorem watch_word (w : Word) (qs : List Request) (i : Instr) (hq : s.requests = .word w :: qs) (hw : decode w = .ok i)
    (h : exec i s = .next t) : d.watch s = ({ d with repairing := false } : Display).afterCommand i s t := by
  have hf : s.fetch = .command i := by simp [State.fetch, hq, hw]
  have hbegin : d.inBegin s = false := by simp [Display.inBegin, hq]
  have hlast : isLastOfBegin s = false := by simp [isLastOfBegin, hq]
  rw [watch_command d s t i hf h, hbegin, hlast, Bool.and_false]
  rfl

/-- A push is read as one control frame of the copies of its word, as long as it returns Ok (R80). -/
theorem readAll_pushSets (i : Instr) (hi : i = .push0 ∨ i = .push1) (r : Reading) (hlines : r.lines = s.lines)
    (hframe : r.frame = none) (hce : s.lines.ce = .high) (hdata : s.lines.data ≠ .unknown) :
    r.readAll (okEvents (lineSetsOf s i)) = [⟨(okState i s).lines, none, r.latched ++
      [frameOf .control (List.replicate s.repeatCount (if i = .push0 then s.cw0 else s.cw1))], r.loose⟩] := by
  have hread := fun w => readAll_push s.repeatCount w r hframe (by rw [hlines, hce]) (by rwa [hlines])
  rw [okState_lines, ← hlines]
  rcases hi with rfl | rfl
  · exact hread s.cw0
  · exact hread s.cw1

/-- Settles O53: the wire by the reading of a push, the view by what every device takes. -/
theorem okPushReachesEveryDevice : Obligations.OkPushReachesEveryDevice := by
  unfold Obligations.OkPushReachesEveryDevice
  intro i s t qs d r hi hq hlife hn hready hstep hstage hce hdata hnext hr hlines hframe
  obtain ⟨u, hu, hsettled⟩ := stepRunsIssuedCommand s (encode i) qs i hq (decode_encode i)
  obtain rfl := Host.Outcome.next.inj (hsettled.symm.trans hnext)
  obtain ⟨-, rfl⟩ := exec_next_ok i s u hu hr
  refine ⟨⟨_, okState_trace i s, readAll_pushSets i hi r hlines hframe hce hdata⟩, ?_⟩
  have hd : PushReaches { d with repairing := false } s := ⟨hstage, hce, hdata, reaches_of_inStep hn hstep⟩
  have ha : Repaired { d with repairing := false } s := ⟨hready, hlife⟩
  rw [watch_word (encode i) qs i hq (decode_encode i) hu]
  rcases hi with rfl | rfl
  · have he : ({ d with repairing := false } : Display).afterCommand .push0 s (okState .push0 s) =
        ({ d with repairing := false } : Display).takeCw0 s.cw0 := afterPush0_repaired hd ha hr
    rw [he]
    simp [hready, hstep, hstage]
  · have he : ({ d with repairing := false } : Display).afterCommand .push1 s (okState .push1 s) =
        ({ d with repairing := false } : Display).takeCw1 s.cw1 := afterPush1_repaired hd ha hr
    rw [he]
    simp [hready, hstage]

end Sys2Proof.Proofs
end

section
/-! A complete `begin` repairs the display (60_exceptions.md R99, 70_reset_and_hazards.md R104, R109): the view along a
stream of commands that return Ok, and that none of `begin`'s commands stops the repair. -/

namespace Sys2Proof.Proofs

open Sys2Proof Sys2Proof.Machine Sys2Proof.Laws

/-- The view after a list of commands, each of which returns Ok. -/
def afterStream : List Instr → Display → State → Display
  | [], d, _ => d
  | i :: is, d, s => afterStream is (d.afterCommand i s (okState i s)) (okState i s)

@[simp] theorem afterStream_cons (i : Instr) (is : List Instr) (d : Display) (s : State) :
    afterStream (i :: is) d s = afterStream is (d.afterCommand i s (okState i s)) (okState i s) := rfl

theorem afterStream_append (is js : List Instr) (d : Display) (s : State) :
    afterStream (is ++ js) d s = afterStream js (afterStream is d s) (okRun is s) := by
  induction is generalizing d s with
  | nil => rfl
  | cons i is ih => exact ih _ _

/-- The view of a command's effect does not look at the host's queue. -/
theorem afterCommand_withRequests (d : Display) (i : Instr) (s t : State) (qs : List Request) :
    d.afterCommand i (s.withRequests qs) (t.withRequests qs) = d.afterCommand i s t := by
  cases i <;> rfl

theorem afterStream_withRequests (is : List Instr) (d : Display) (s : State) (qs : List Request) :
    afterStream is d (s.withRequests qs) = afterStream is d s := by
  induction is generalizing d s with
  | nil => rfl
  | cons i is ih => rw [afterStream_cons, okState_withRequests, afterCommand_withRequests, ih, afterStream_cons]

theorem watchSteps_succ (k : Nat) (d : Display) (s t : State) (h : step s = .next t) :
    Display.watchSteps (k + 1) d s = Display.watchSteps k (d.watch s) t := by
  simp [Display.watchSteps, h]

/-- The command a `begin` takes next is its last one exactly when none is left after it. -/
theorem isLastOfBegin_of_drop (s : State) (k : Nat) (qs : List Request) (i : Instr) (is : List Instr)
    (hq : s.requests = .pseudo .beginInit k :: qs) (hdrop : (expand s.n .beginInit).drop k = i :: is) :
    isLastOfBegin s = true ↔ is = [] := by
  obtain ⟨-, -, hlen⟩ := expand_drop_cons s.n .beginInit k i is hdrop
  rw [← List.length_eq_zero_iff]
  simp only [isLastOfBegin, hq, hlen, beq_iff_eq]
  omega

/-- The view along what is left of a `begin`, all of it returning Ok: repaired, if the repair is still under way at the
end (R104). -/
theorem watchSteps_begin (qs : List Request) (is : List Instr) (k : Nat) (d : Display) (s : State) (hne : is ≠ [])
    (hq : s.requests = .pseudo .beginInit k :: qs) (hdrop : (expand s.n .beginInit).drop k = is)
    (h : AllReturnOk is s) (hrep : (afterStream is { d with repairing := d.inBegin s } s).repairing = true) :
    Display.watchSteps is.length d s = .repaired (okRun is s) := by
  induction is generalizing k d s with
  | nil => exact absurd rfl hne
  | cons i is ih =>
    obtain ⟨hok, hrest⟩ := (allReturnOk_cons i is s).1 h
    obtain ⟨hi, hdrop', -⟩ := expand_drop_cons s.n .beginInit k i is hdrop
    have hlast := isLastOfBegin_of_drop s k qs i is hq hdrop
    have hwatch := watch_command d s _ i (fetch_pseudo s .beginInit k qs i hq hi) (exec_ok i s hok)
    rw [List.length_cons, watchSteps_succ _ d s _ (step_pseudo_ok s .beginInit k qs i is hq hdrop hok)]
    by_cases his : is = []
    · subst his
      rw [hwatch, hlast.2 rfl, Bool.and_true]
      exact if_pos hrep
    · have hno : isLastOfBegin s = false := Bool.eq_false_of_not_eq_true fun hl => his (hlast.1 hl)
      rw [hno, Bool.and_false] at hwatch
      rw [if_neg his, hwatch]
      refine (ih (k + 1) _ _ his rfl (by rw [withRequests_n, okState_n]; exact hdrop')
        (allReturnOk_withRequests is _ _ hrest) ?_).trans ?_
      · rw [afterStream_withRequests]
        exact hrep
      · rw [okRun_withRequests]
        rfl

/-- A repair is under way whose pushes reach every device (R85, R104). -/
structure Repairing (d : Display) (s : State) : Prop where
  repairing : d.repairing = true
  count : d.reaches s = true

/-- In the dot frame of a repairing `begin`, or in the frame a line error left it in, with CE Low; `filled` tells that
a byte has been shifted, and DATA is known then. -/
structure RepairingInFrame (filled : Bool) (d : Display) (s : State) : Prop where
  repair : Repairing d s
  ce : s.lines.ce = .low
  stage : (∃ f, d.stage = .dotFrame f ∧ (filled = true → f = true)) ∨ d.stage = .stray
  data : filled = true → s.lines.data ≠ .unknown

/-- Between the commands of a repairing `begin` that stand alone. -/
structure RepairingBetween (d : Display) (s : State) : Prop where
  repair : Repairing d s
  ce : s.lines.ce = .high
  data : s.lines.data ≠ .unknown
  between : d.stage = .between

variable {d e : Display} {s : State}

/-- A command leaves the width, so the repair goes on where the view keeps what it knows of the count. -/
theorem Repairing.keep (h : Repairing d s) (i : Instr) (hrep : e.repairing = d.repairing)
    (hstep : e.inStep = d.inStep) :
    Repairing e (okState i s) := by
  obtain ⟨hrepairing, hcount⟩ := h
  refine ⟨hrep.trans hrepairing, ?_⟩
  rwa [Display.reaches, hstep, okState_n]

/-- What a line error left unknown does not stop a repair (R109). -/
theorem spoil_repairing_ok (d : Display) (i : Instr) (s : State) : (d.spoil (okState i s)).repairing = d.repairing := by
  simp [Display.goesOn]

theorem strayStage_low {t : State} (h : t.lines.ce = .low) : strayStage t = .stray := by
  simp [strayStage, h]

theorem strayStage_high {t : State} (h : t.lines.ce = .high) : strayStage t = .between := by
  simp [strayStage, h]

/-- `ENTER_DOT` between transactions with CE High, or in a frame left open, goes on with the repair. -/
theorem Repairing.enterDot (h : Repairing d s) (hstart : (d.stage = .between ∧ s.lines.ce = .high) ∨ d.stage = .stray) :
    RepairingInFrame false (d.afterCommand .enterDot s (okState .enterDot s)) (okState .enterDot s) := by
  have hce : (okState .enterDot s).lines.ce = .low := by rw [okState_lines]; rfl
  rcases hstart with ⟨hd, hs⟩ | hd
  · have hopened : d.afterCommand .enterDot s (okState .enterDot s) = { d with stage := .dotFrame false } ∨
        d.afterCommand .enterDot s (okState .enterDot s) =
          { d.spoil (okState .enterDot s) with stage := .dotFrame false } := by
      cases hidle : opensFromIdle s <;> simp [Display.afterCommand, Display.afterEnter, hd, hs, hidle]
    rcases hopened with he | he
    · rw [he]
      exact ⟨h.keep .enterDot rfl rfl, hce, .inl ⟨false, rfl, nofun⟩, nofun⟩
    · rw [he]
      exact ⟨h.keep .enterDot (spoil_repairing_ok d .enterDot s) rfl, hce, .inl ⟨false, rfl, nofun⟩, nofun⟩
  · rw [afterCommand_stray d .enterDot s _ hd (by decide)]
    exact ⟨h.keep .enterDot (spoil_repairing_ok d .enterDot s) rfl, hce, .inr (strayStage_low hce), nofun⟩

/-- `SHIFT` of a byte with bit 7 at 0 goes on with the repair. -/
theorem RepairingInFrame.shift {filled : Bool} (h : RepairingInFrame filled d s) (b : Byte) (hb : b.getLsbD 7 = false) :
    RepairingInFrame true (d.afterCommand (.shift b) s (okState (.shift b) s)) (okState (.shift b) s) := by
  have hce : (okState (.shift b) s).lines.ce = .low := by rw [okState_shift]; exact h.ce
  have hdata : (okState (.shift b) s).lines.data ≠ .unknown := by
    rw [okState_shift]
    cases b.getLsbD 0 <;> simp
  rcases h.stage with ⟨f, hd, -⟩ | hd
  · have he : d.afterCommand (.shift b) s (okState (.shift b) s) = { d with stage := .dotFrame true } := by
      simp only [Display.afterCommand, Display.afterShift, hd, hb, okState_result, if_true, Bool.false_eq_true,
        if_false]
    rw [he]
    exact ⟨h.repair.keep (.shift b) rfl rfl, hce, .inl ⟨true, rfl, fun _ => rfl⟩, fun _ => hdata⟩
  · rw [afterCommand_stray d (.shift b) s _ hd (by simp)]
    exact ⟨h.repair.keep (.shift b) (spoil_repairing_ok d (.shift b) s) rfl, hce, .inr (strayStage_low hce),
      fun _ => hdata⟩

/-- `LATCH` of a filled frame goes on with the repair. -/
theorem RepairingInFrame.latch (h : RepairingInFrame true d s) :
    RepairingBetween (d.afterCommand .latch s (okState .latch s)) (okState .latch s) := by
  have hce : (okState .latch s).lines.ce = .high := by rw [okState_lines]; rfl
  have hdata : (okState .latch s).lines.data ≠ .unknown := by rw [okState_lines]; exact h.data rfl
  rcases h.stage with ⟨f, hd, hf⟩ | hd
  · obtain rfl := hf rfl
    have he : d.afterCommand .latch s (okState .latch s) = { d with stage := .between } := by
      simp [Display.afterCommand, Display.afterLatch, hd]
    rw [he]
    exact ⟨h.repair.keep .latch rfl rfl, hce, hdata, rfl⟩
  · rw [afterCommand_stray d .latch s _ hd (by decide)]
    exact ⟨h.repair.keep .latch (spoil_repairing_ok d .latch s) rfl, hce, hdata, strayStage_high hce⟩

theorem RepairingBetween.pushReaches (h : RepairingBetween d s) : PushReaches d s :=
  ⟨h.between, h.ce, h.data, h.repair.count⟩

/-- `PUSH0` goes on with the repair. -/
theorem RepairingBetween.push0 (h : RepairingBetween d s) :
    RepairingBetween (d.afterCommand .push0 s (okState .push0 s)) (okState .push0 s) := by
  obtain ⟨hce, -, hdata⟩ := okState_lines_of_standsAlone .push0 s (.inr (.inl rfl)) h.ce
  have he := afterPush0_ok h.pushReaches (okState_result .push0 s)
  change RepairingBetween (d.afterPush0 s (okState .push0 s)) _
  rw [he]
  split
  · exact ⟨h.repair.keep .push0 (takeCw0_repairing d s.cw0) (takeCw0_inStep d s.cw0), hce, hdata h.data,
      (takeCw0_stage d s.cw0).trans h.between⟩
  · exact ⟨h.repair.keep .push0 rfl rfl, hce, hdata h.data, h.between⟩

/-- `PUSH1` goes on with the repair. -/
theorem RepairingBetween.push1 (h : RepairingBetween d s) :
    (d.afterCommand .push1 s (okState .push1 s)).repairing = true := by
  have he := afterPush1_ok h.pushReaches (okState_result .push1 s)
  change (d.afterPush1 s (okState .push1 s)).repairing = true
  rw [he]
  split
  · exact h.repair.repairing
  · exact h.repair.repairing

/-- The shifts of a blank image, and the latch, go on with the repair. -/
theorem RepairingInFrame.blank_shifts_latch {filled : Bool} (k : Nat) (h : RepairingInFrame filled d s) :
    RepairingBetween (afterStream ((List.replicate (k + 1) 0x00).map .shift ++ [.latch]) d s)
      (okRun ((List.replicate (k + 1) 0x00).map .shift ++ [.latch]) s) := by
  induction k generalizing filled d s with
  | zero => exact (h.shift 0x00 rfl).latch
  | succ k ih => exact ih (h.shift 0x00 rfl)

/-- `clear` goes on with the repair, for a chain of at least one character (R58). -/
theorem Repairing.clear (h : Repairing d s) (hstart : (d.stage = .between ∧ s.lines.ce = .high) ∨ d.stage = .stray)
    (n : Nat) (hn : 1 ≤ n) :
    RepairingBetween (afterStream (clearCommands n) d s) (okRun (clearCommands n) s) := by
  obtain ⟨k, hk⟩ : ∃ k, cellColumns * n = k + 1 := ⟨5 * n - 1, by rw [cellColumns]; omega⟩
  rw [clearCommands, hk]
  exact (h.enterDot hstart).blank_shifts_latch k

/-- No command of a `begin` that returns Ok throughout stops the repair. -/
theorem Repairing.begin (h : Repairing d s) (hstart : (d.stage = .between ∧ s.lines.ce = .high) ∨ d.stage = .stray)
    (n : Nat) (hn : 1 ≤ n) : (afterStream (expand n .beginInit) d s).repairing = true := by
  rw [expand_begin, afterStream_append]
  exact (h.clear hstart n hn).push0.push1

/-- Settles O55: every command goes on with the repair, and the last one completes it. -/
theorem beginRepairsTheDisplay : Obligations.BeginRepairsTheDisplay := by
  unfold Obligations.BeginRepairsTheDisplay
  intro s qs r d hq hn hmultiple hstart hinStep hr hanswers
  obtain rfl := hr.trans (repeatCount_eq s).symm
  have hok := begin_allReturnOk s hanswers
  have hrepair : Repairing { d with repairing := d.inBegin s } s := by
    refine ⟨by simp [Display.inBegin, hq], ?_⟩
    rcases hinStep with hd | hfour
    · exact reaches_of_inStep hmultiple hd
    · simp [Display.reaches, deviceChars, hfour]
  have hne : expand s.n .beginInit ≠ [] := List.cons_ne_nil _ _
  have hview := watchSteps_begin qs _ 0 d s hne hq rfl hok (hrepair.begin hstart s.n (by omega))
  rw [expand_begin_length] at hview
  obtain ⟨h0, h1, hdom, -, -⟩ := okRun_begin s hn
  rw [hview, Display.repaired, h0, h1, hdom]
  rfl

end Sys2Proof.Proofs
end

section
/-! A `SHIFT` cut short inside an open frame (40_transfer_engine.md R64, 20_memory.md R40, R42): the bits before the
failing set have been sampled, and that set's own bit only if it was its rising edge that failed. -/

namespace Sys2Proof.Proofs

open Sys2Proof Sys2Proof.Machine Sys2Proof.Laws

/-- The sets of a run of bits up to set `m` of bit `j`: those of the bits before it, and its own first `m`. -/
theorem take_flatMap_bitSets (b : Byte) (is : List Nat) (i j m : Nat) (hi : is[j]? = some i) (hm : m < 3) :
    (is.flatMap (bitSets b)).take (3 * j + m) = (is.take j).flatMap (bitSets b) ++ (bitSets b i).take m := by
  have hlen : ∀ i, (bitSets b i).length = 3 := fun _ => rfl
  induction is generalizing j with
  | nil => cases hi
  | cons i' is ih =>
    cases j with
    | zero =>
      obtain rfl : i' = i := by simpa using hi
      rw [List.flatMap_cons, Nat.mul_zero, Nat.zero_add,
        List.take_append_of_le_length (Nat.le_of_lt (by rw [hlen]; exact hm))]
      rfl
    | succ j =>
      rw [List.flatMap_cons, show 3 * (j + 1) + m = (bitSets b i').length + (3 * j + m) by rw [hlen]; omega,
        List.take_length_add_append, ih j (by simpa using hi)]
      simp

/-- The sample of bit `i`. -/
def sampleOfBit (b : Byte) (i : Nat) : Sample := if b.getLsbD i then .one else .zero

/-- A run of bits inside an open frame has one reading, with a sample of each (R40). -/
theorem readAll_bits (b : Byte) (is : List Nat) (r : Reading) (f : Frame) (hf : r.frame = some f) :
    ∃ r', r.readAll (okEvents (is.flatMap (bitSets b))) = [r'] ∧
      r'.frame = some { f with bits := f.bits ++ is.map (sampleOfBit b) } := by
  induction is generalizing r f with
  | nil => exact ⟨r, rfl, by simp [hf]⟩
  | cons i is ih =>
    obtain ⟨r', hread, hframe⟩ := ih
      ⟨{ r.lines with clk := .high, data := if b.getLsbD i then .high else .low },
        some { f with bits := f.bits ++ [sampleOfBit b i] }, r.latched, r.loose⟩ _ rfl
    refine ⟨r', ?_, by simp [hframe]⟩
    rw [List.flatMap_cons, okEvents_append, readAll_append, readAll_bitSets r f hf b i, ← hread]
    simp [sampleOfBit]

/-- The sets of bit `i` inside an open frame, cut short at the `m`-th: the bit is not sampled where CLK Low or DATA
failed, and may be or not where its CLK High failed (R40, R42). -/
theorem readAll_bit_cutShort (b : Byte) (i m : Nat) (hm : m < 3) (x : LineSet) (c : Cause)
    (hx : (bitSets b i)[m]? = some x) (r : Reading) (f : Frame) (hf : r.frame = some f) :
    (r.readAll (okEvents ((bitSets b i).take m) ++ [⟨x.line, x.level, .err c⟩])).map
        (fun q => q.frame.map Frame.bits) =
      if m < 2 then [some f.bits] else [some f.bits, some (f.bits ++ [sampleOfBit b i])] := by
  obtain ⟨ls, fr, l, o⟩ := r
  obtain rfl : fr = some f := hf
  match m, hm with
  | 0, _ =>
    obtain rfl : ⟨.clk, .low⟩ = x := by simpa [bitSets] using hx
    rfl
  | 1, _ =>
    obtain rfl : ⟨.data, bitLevel (b.getLsbD i)⟩ = x := by simpa [bitSets] using hx
    rfl
  | 2, _ =>
    obtain rfl : ⟨.clk, .high⟩ = x := by simpa [bitSets] using hx
    cases hb : b.getLsbD i <;> simp [bitSets, hb, bitLevel, sampleOfBit] <;> rfl

/-- The bits a `SHIFT` sends, in order (R29). -/
def shiftedBits : List Nat := [7, 6, 5, 4, 3, 2, 1, 0]

theorem shiftedBits_getElem? (j : Nat) (hj : j < 8) : shiftedBits[j]? = some (7 - j) := by
  have h : ∀ j < 8, shiftedBits[j]? = some (7 - j) := by decide
  exact h j hj

/-- The sets of a `SHIFT` before set `m` of bit `7 - j`, and that set failing, inside an open frame. -/
theorem readAll_shift_cutShort (b : Byte) (j m : Nat) (hj : j < 8) (hm : m < 3) (x : LineSet) (c : Cause)
    (hx : (shiftSets b)[3 * j + m]? = some x) (r : Reading) (f : Frame) (hf : r.frame = some f) :
    (r.readAll (okEvents ((shiftSets b).take (3 * j + m)) ++ [⟨x.line, x.level, .err c⟩])).map
        (fun q => q.frame.map Frame.bits) =
      if m < 2 then [some (f.bits ++ (samplesOfByte b).take j)]
      else [some (f.bits ++ (samplesOfByte b).take j), some (f.bits ++ (samplesOfByte b).take (j + 1))] := by
  have hi := shiftedBits_getElem? j hj
  have hsets : shiftSets b = shiftedBits.flatMap (bitSets b) := rfl
  have hsamples : samplesOfByte b = shiftedBits.map (sampleOfBit b) := rfl
  have hx' : (bitSets b (7 - j))[m]? = some x := by
    rwa [hsets, getElem?_flatMap_bitSets b shiftedBits j m hm, hi, Option.bind_some] at hx
  obtain ⟨r', hread, hframe⟩ := readAll_bits b (shiftedBits.take j) r f hf
  rw [hsets, take_flatMap_bitSets b shiftedBits (7 - j) j m hi hm, okEvents_append, List.append_assoc, readAll_append,
    hread, List.flatMap_singleton, readAll_bit_cutShort b (7 - j) m hm x c hx' r' _ hframe, hsamples,
    List.take_add_one, List.getElem?_map, hi, List.map_take, List.append_assoc]
  rfl

/-- Settles O60: the events are those of the sets before the failing one, and its error. -/
theorem shiftCutShortSamplesTheBitsBeforeIt : Obligations.ShiftCutShortSamplesTheBitsBeforeIt := by
  unfold Obligations.ShiftCutShortSamplesTheBitsBeforeIt
  intro b s t r f j m c x hj hm hx hfail ht _ hf
  obtain ⟨hlt, rfl⟩ := List.getElem?_eq_some_iff.1 hx
  have hsplit : lineSetsOf s (.shift b) =
      (shiftSets b).take (3 * j + m) ++ (shiftSets b)[3 * j + m] :: (shiftSets b).drop (3 * j + m + 1) := by
    rw [← List.drop_eq_getElem_cons hlt, List.take_append_drop]
    rfl
  obtain rfl := Host.Outcome.next.inj ((exec_lineError (.shift b) s _ _ _ c hsplit hfail).symm.trans ht)
  exact ⟨_, rfl, readAll_shift_cutShort b j m hj hm _ c hx r f hf⟩

end Sys2Proof.Proofs
end
